-- ==== Sys2Proof/Word.lean ====
section
/-!
DEFINITION. The words of the block: bytes, 64-bit register words, and the machine value. Bit numbering is that of
00_scope R11 (bit 0 least significant).
-/

namespace Sys2Proof

/-- A byte, 8 bits unsigned (00_scope R11; the source's RawByte). -/
abbrev Byte := BitVec 8

/-- The contents of one control-port register (10_state R28). -/
abbrev Word := BitVec 64

/-- A machine value, an element of `num.V` (00_scope R8). `num.enc` is injective into 64-bit words, so a value IS held
as its word: `v.enc` is `num.enc(v)`. Nothing is said of the format of the word (log entry 1). -/
structure Value where
  /-- `num.enc(v)`, the word by which the value leaves the block (30_encoding R77). -/
  enc : Word
deriving DecidableEq, Repr, Inhabited

/-- `num.zero`: it encodes as the all-zero word (00_scope R9, NP6). -/
def Value.zero : Value := ⟨0⟩

@[simp] theorem Value.zero_enc : Value.zero.enc = 0 := rfl

end Sys2Proof
end

