-- ==== Sys2Proof/Config.lean ====
section
/-!
DEFINITION. What an implementation or the environment fixes and the spec leaves open: the physical constants (R5), the
capacities (R6), the numerics record `num` with the properties of R9, and the free draws of the environment (R12).
Every `opaque` constant here has no body: nothing can be proved of it but what its type says.
-/

namespace Sys2Proof

/-! ### Constants of rule R5 -/

/-- `C = 299000000` m/s, the source's literal (00_scope R5). -/
def Config.lightSpeed : Nat := 299000000

/-- `FC = 2440000000` Hz (00_scope R5). -/
def Config.carrier : Nat := 2440000000

/-- `VREF = 33/10` V (00_scope R5). -/
def Config.vref : ℚ := 33 / 10

/-- `EPS = 10^-10`, the parameter of the decibel floor at the default R132 gives it (42_db R132, D9; log entry 3). -/
def Config.eps : ℚ := 1 / 10 ^ 10

/-! ### Capacities of rule R6 -/

/-- The two capacity parameters of 00_scope R6. They are named arguments of the model: a field of the state that no
operation changes, so that a statement about every state holds for every capacity (log entry 4). -/
structure Caps where
  /-- `NMAX`, the largest admitted window size. -/
  nmax : Nat
  /-- `DEPTH_MAX`, the largest admitted number of waterfall rows. -/
  depthMax : Nat
deriving DecidableEq, Repr

/-- The bounds R6 puts on the capacities. -/
abbrev Caps.Ok (c : Caps) : Prop :=
  2 ≤ c.nmax ∧ c.nmax ≤ 65536 ∧ 1 ≤ c.depthMax ∧ c.depthMax ≤ 65536

/-! ### The numerics record of rules R8 and R9 -/

/-- The record `num` of 00_scope R8 over a set `V` of machine values: each field a total function of its operands
(NP1). `num.enc` is not here: a `Value` is held as its word. `dft n xw k` is bin `k` of the transform of `xw`, as
(real part, imaginary part). -/
structure Numerics (V : Type) where
  /-- `real(v)`, the finite real a machine value denotes; total, so NP2 holds of every value. -/
  real : V → ℝ
  /-- `EPS`, the floor constant of 42_db R132: a named parameter of every record, with the default of R132. The machine's
  own record has that default (`HardwareNumerics.eps_eq`). -/
  eps : ℝ := (Config.eps : ℝ)
  zero : V
  vdec : BitVec 16 → V
  hann : Nat → Nat → V
  mul : V → V → V
  dft : Nat → List V → Nat → V × V
  mag : V → V → V
  db : V → V
  speed : Nat → Nat → Nat → V
  ofparam : ℚ → V

/-- `DB_FLOOR = 20*log10(EPS)` (42_db R132). -/
noncomputable def Numerics.dbFloor {V : Type} (num : Numerics V) : ℝ := 20 * Real.logb 10 num.eps

/-- R132: at the default `EPS` the floor is -200 exactly. -/
theorem Numerics.dbFloor_of_default {V : Type} (num : Numerics V) (h : num.eps = (Config.eps : ℝ)) :
    num.dbFloor = -200 := by
  have he : num.eps = (10 : ℝ) ^ (-10 : ℝ) := by
    rw [h, Config.eps, Real.rpow_neg (by norm_num)]
    norm_num
  rw [Numerics.dbFloor, he, Real.logb_rpow (by norm_num) (by norm_num)]
  norm_num

/-- The row the transform produces from a window `s` of `n` samples, entry `k` (42_db R135). -/
def Numerics.transform {V : Type} (num : Numerics V) (n : Nat) (s : List V) (k : Nat) : V :=
  let xw := List.zipWith num.mul s ((List.range n).map (num.hann n))
  num.db (num.mag (num.dft n xw k).1 (num.dft n xw k).2)

/-- What a model may assume of `num` (00_scope R9). NP1 and NP2 hold by the types; NP6 is `Value.zero`; NP5, the
accuracy requirement, is not assumed (log entry 2). -/
structure Numerics.Lawful {V : Type} (num : Numerics V) : Prop where
  /-- 42_db R132: `EPS` is a positive real. -/
  eps_pos : 0 < num.eps
  /-- 00_scope R8: `real(num.zero) = 0`. -/
  real_zero : num.real num.zero = 0
  /-- NP3: `real(num.vdec(2048)) = 0`. -/
  real_vdec_mid : num.real (num.vdec 2048) = 0
  /-- NP3: the product denotes 0 when the first factor does. -/
  real_mul_zero : ∀ a b, num.real a = 0 → num.real (num.mul a b) = 0
  /-- NP3: the transform of an all-zero vector is all-zero. -/
  real_dft_zero : ∀ n xw k, (∀ x ∈ xw, num.real x = 0) →
    num.real (num.dft n xw k).1 = 0 ∧ num.real (num.dft n xw k).2 = 0
  /-- NP3: the magnitude of a zero denotes 0 (log entry 25). -/
  real_mag_zero : ∀ re im, num.real re = 0 → num.real im = 0 → num.real (num.mag re im) = 0
  /-- R8: the result of `num.mag` is at least 0. -/
  real_mag_nonneg : ∀ re im, 0 ≤ num.real (num.mag re im)
  /-- NP3: a magnitude at most `EPS` converts to exactly `DB_FLOOR`. -/
  real_db_floor : ∀ m, num.real m ≤ num.eps → num.real (num.db m) = num.dbFloor
  /-- NP4, the decoder range. -/
  vdec_range : ∀ raw : BitVec 16, raw.toNat ≤ 4095 →
    -(165 / 100) ≤ num.real (num.vdec raw) ∧ num.real (num.vdec raw) < 165 / 100

/-- A record with the properties of R9 and the default `EPS`: the word 1 denotes the floor, every other word 0. It exists
only so that Lean accepts the constant `Config.hardware` below, which hides it: no proof can see which record that is. -/
def Numerics.degenerate : Numerics Value where
  real := fun v => if v = Value.zero then 0 else ((-200 : ℚ) : ℝ)
  zero := Value.zero
  vdec := fun _ => Value.zero
  hann := fun _ _ => Value.zero
  mul := fun _ _ => Value.zero
  dft := fun _ _ _ => (Value.zero, Value.zero)
  mag := fun _ _ => Value.zero
  db := fun _ => ⟨1⟩
  speed := fun _ _ _ => Value.zero
  ofparam := fun _ => Value.zero

theorem Numerics.degenerate_real_zero : Numerics.degenerate.real Value.zero = 0 := by simp [Numerics.degenerate]

theorem Numerics.degenerate_lawful : Numerics.degenerate.Lawful where
  eps_pos := by norm_num [Numerics.degenerate, Config.eps]
  real_zero := Numerics.degenerate_real_zero
  real_vdec_mid := Numerics.degenerate_real_zero
  real_mul_zero := fun _ _ _ => Numerics.degenerate_real_zero
  real_dft_zero := fun _ _ _ _ => ⟨Numerics.degenerate_real_zero, Numerics.degenerate_real_zero⟩
  real_mag_zero := fun _ _ _ _ => Numerics.degenerate_real_zero
  real_mag_nonneg := fun _ _ => Numerics.degenerate_real_zero.ge
  real_db_floor := fun _ _ => by
    rw [Numerics.dbFloor_of_default _ rfl]
    show (if (⟨1⟩ : Value) = Value.zero then (0 : ℝ) else ((-200 : ℚ) : ℝ)) = -200
    rw [if_neg (by decide)]
    norm_num
  vdec_range := fun _ _ => by
    rw [show Numerics.degenerate.real (Numerics.degenerate.vdec _) = 0 from Numerics.degenerate_real_zero]
    norm_num

/-- A numerics record of the hardware: machine values, with the properties of R9, the `EPS` of R132 (log entry 3) and a
zero that encodes as zero (NP6). The defaults only witness that such a record exists. -/
structure HardwareNumerics where
  num : Numerics Value := Numerics.degenerate
  lawful : num.Lawful := by exact Numerics.degenerate_lawful
  eps_eq : num.eps = (Config.eps : ℝ) := by rfl
  zero_eq : num.zero = Value.zero := by rfl
deriving Inhabited

/-- The hardware's numerics, open but for R9 (D2; log entries 1 and 2). -/
opaque Config.hardware : HardwareNumerics

/-- The record `num` every data-path rule uses. -/
abbrev Config.num : Numerics Value := Config.hardware.num

/-- R132: `DB_FLOOR` of the machine is -200. -/
theorem Config.num_dbFloor : Config.num.dbFloor = -200 :=
  Numerics.dbFloor_of_default _ Config.hardware.eps_eq

/-- R132: a value that denotes `DB_FLOOR` is not the value the waterfall is filled with at RUN. -/
theorem Config.floor_ne_zero {v : Value} (h : Config.num.real v = Config.num.dbFloor) : v ≠ Value.zero := by
  rintro rfl
  have h0 := Config.hardware.lawful.real_zero
  rw [Config.hardware.zero_eq, h, Config.num_dbFloor] at h0
  norm_num at h0

/-! ### What the environment chooses (rules R12, R13, R187) -/

/-- The display sink's answer to a `render` (44_waterfall R163); `noAnswer` is a sink that has not answered yet
(70_reset R235). -/
inductive SinkAnswer where
  | ok
  | fail
  | noAnswer
deriving DecidableEq, Repr, Inhabited

/-- The answer bit of 30_encoding R78: 0 is ok, 1 is fail (log entry 23). -/
def SinkAnswer.ofBit (b : BitVec 1) : SinkAnswer := if b = 0 then .ok else .fail

/-- Who acts next (45_controller R187): the controller, the host with one transaction `{we, idx, wdata}` (R71), a pulse
on `cancel_req` (R182), or the reset input (R225). -/
inductive Turn where
  | controller
  | bus (p : BitVec 73)
  | cancelReq
  | rst
deriving DecidableEq, Repr, Inhabited

/-- The next agent where the state's list of turns has ended (log entry 6). -/
opaque Config.turnDraw : Nat → Turn

/-- The byte source's answer to a poll where the list of answers has ended (log entry 6). -/
opaque Config.pollDraw : Nat → Option Byte

/-- The byte source's answer to `open()` where the list of answers has ended (log entry 6). -/
opaque Config.openDraw : Nat → Bool

/-- The display sink's answer where the list of answers has ended (log entry 6). -/
opaque Config.sinkDraw : Nat → SinkAnswer

/-- `(WP + 1) mod DEPTH` for `DEPTH = 0`, for which R11 defines no remainder (log entry 13). -/
opaque Config.wpOfNoRows : BitVec 16 → BitVec 16

end Sys2Proof
end

