-- ==== Sys2Proof/Machine/State.lean ====
section
/-!
DEFINITION. The state of the machine (10_state), as plain data, its value after reset (R48), and the reasons a step can
stop.
-/

namespace Sys2Proof.Machine

/-- `CS`, the controller state (R21): one bit, 0 Stopped, 1 Running. -/
inductive CtrlState where
  | stopped
  | running
deriving DecidableEq, Repr

/-- The block's arrays (R24 to R27, R40). -/
inductive Arr where
  | fb | fr | smp | xw | xre | xim | mag | dbv | row | win | spd | wf
deriving DecidableEq, Repr

/-- An array as a list of (index, element) pairs, in the canonical form `Memory.wf` of Ops.lean: indices strictly
rising. An index that is not listed has not been written and reads as no value (R48: "leave it unwritten and fault on
a read"; log entry 9). `Memory Byte` is a list of `Host.Cell`. -/
abbrev Memory (α : Type) := List (Nat × α)

/-- What the block does to the outside agents (00_scope R13). -/
inductive Event where
  /-- `open()` to the byte source (R179). -/
  | openSource
  /-- `flush()` to the byte source (R98). -/
  | flush
  /-- `release()` to the byte source (R190, R207). -/
  | release
  /-- `render(matrix, x_axis, y_extent)` to the display sink (R163), `matrix` in logical row order. -/
  | render (matrix : List (List Value)) (xAxis : List Value) (yExtent : Value × Value)
deriving DecidableEq, Repr

/-- The inputs of the steps to come (00_scope R12, R13), a field of the model and not of the block: who acts next, and
the answers of the byte source and the sink, each list the head first. Where a list has ended the input is a free draw
of Config, `draws` counting them (log entries 5 and 6). -/
structure Env where
  turns : List Turn
  polls : List (Option Byte)
  opens : List Bool
  sinks : List SinkAnswer
  draws : Nat
deriving DecidableEq, Repr

/-- The state of the machine. -/
structure State where
  /-- The capacities NMAX and DEPTH_MAX (R6), changed by nothing. -/
  caps : Caps
  /-- The inputs of the steps to come. -/
  env : Env
  /-- R21. -/
  cs : CtrlState
  /-- R22, the phase codes of R74. -/
  phase : BitVec 4
  /-- BYTE (R23). -/
  byte : Byte
  /-- The framer buffer FB (R24). -/
  fb : Memory Byte
  /-- The framer count CNT (R24, R39). -/
  cnt : BitVec 18
  /-- The drained frame FR (R25). -/
  fr : Memory Byte
  /-- FRLEN (R25). -/
  frlen : BitVec 18
  /-- The analysis window SMP (R26). -/
  smp : Memory Value
  /-- The windowed sequence XW (R26). -/
  xw : Memory Value
  /-- Real parts of the bins XRE (R26). -/
  xre : Memory Value
  /-- Imaginary parts of the bins XIM (R26). -/
  xim : Memory Value
  /-- Magnitudes MAG (R26). -/
  mag : Memory Value
  /-- Decibel values DBV (R26). -/
  dbv : Memory Value
  /-- The SpectrumRow ROW (R26). -/
  row : Memory Value
  /-- Latched window size N (R27, R35). -/
  n : BitVec 17
  /-- Latched row count DEPTH (R27, R36). -/
  depth : BitVec 17
  /-- Latched one-sided bin count H (R27). -/
  h : BitVec 16
  /-- Latched retained-bin count K (R27, R37). -/
  k : BitVec 16
  /-- `loop_duration` at RUN, UQ16.16 (R27). -/
  yext : BitVec 32
  /-- The window coefficients WIN (R27). -/
  win : Memory Value
  /-- The cropped speed axis SPD (R27). -/
  spd : Memory Value
  /-- The waterfall store WF (R40), cell `(p, j)` at index `65536*p + j` (log entry 11). -/
  wf : Memory Value
  /-- The write pointer WP (R40, R38). -/
  wp : BitVec 16
  /-- CANCEL_PEND (R41). -/
  cancelPend : Bool
  /-- SINK_FAIL (R41). -/
  sinkFail : Bool
  /-- BADCMD (R41). -/
  badcmd : Bool
  /-- INIT_DONE (R41). -/
  initDone : Bool
  /-- ERR (R41, R200). -/
  err : BitVec 4
  /-- CPI (R31), UQ16.16 seconds. -/
  cpi : BitVec 32
  /-- LOOPDUR (R32), UQ16.16 seconds. -/
  loopdur : BitVec 32
  /-- MAXSPEED (R33), UQ16.16 metres per second. -/
  maxspeed : BitVec 32
  /-- FS (R34), hertz. -/
  fs : BitVec 32
  /-- WF_ADDR (R43): ROW in bits 31:16, COL in bits 15:0. -/
  wfAddr : BitVec 32
  /-- AXIS_ADDR (R45). -/
  axisAddr : BitVec 16
  /-- A `render` has been emitted and the sink has not answered (R163 corner case 4, R235); the model's own (log
  entry 7). -/
  renderOpen : Bool
  /-- HIST (R13), oldest first. -/
  hist : List Event
  /-- The block's answers `rdata` to control-port reads (R71), oldest first; the model's own (log entry 16). -/
  answers : List Word
deriving DecidableEq, Repr

/-- The machine right after reset (R48, R225): the values of the table of R48. BYTE, of which R48 says "unspecified",
is 0 (log entry 8); the arrays are unwritten (log entry 9); the capacities are the spec's suggested values (log entry
4); no input is decided (log entries 5 and 6). -/
def State.reset : State where
  caps := ⟨4096, 1024⟩
  env := ⟨[], [], [], [], 0⟩
  cs := .stopped
  phase := 0
  byte := 0
  fb := []
  cnt := 0
  fr := []
  frlen := 0
  smp := []
  xw := []
  xre := []
  xim := []
  mag := []
  dbv := []
  row := []
  n := 0
  depth := 0
  h := 0
  k := 0
  yext := 0
  win := []
  spd := []
  wf := []
  wp := 0
  cancelPend := false
  sinkFail := false
  badcmd := false
  initDone := false
  err := 0
  cpi := 0x00008000
  loopdur := 0x003C0000
  maxspeed := 0x001E0000
  fs := 0x000007D0
  wfAddr := 0
  axisAddr := 0
  renderOpen := false
  hist := []
  answers := []

/-- Why the model stops. None is a fault of the block: the five faults of R200 are next states. Each marks a state the
spec says is never reached ("fault of the model", R26, R79, V6, V12). -/
inductive Fault where
  /-- A read of an array element nothing has written (R26, R48). Raised by any operation that reads an array. Safe: the
  hardware would go on with a value the spec leaves unspecified. -/
  | unwritten (a : Arr) (i : Nat)
  /-- An access beyond an array's capacity (R24, R26, R40), an element that does not exist. Raised by any operation on
  an array. Safe: no reachable state makes such an access. -/
  | noElement (a : Arr) (i : Nat)
  /-- The controller, Running, found PHASE = 15 (R79). Raised by the step alone. Safe: never produced by any rule. -/
  | reservedPhase
deriving DecidableEq, Repr

/-- Why the model has no meaning for an operation. -/
inductive Refusal where
  /-- An arm of exec without a meaning. Raised by no arm: every instruction has its meaning. Safe. -/
  | notModelled (mnemonic : String)
deriving DecidableEq, Repr

/-- The outcome of a step or of a meaning. -/
abbrev Result := Host.Outcome State Fault Refusal

end Sys2Proof.Machine
end

