-- ==== Sys2Proof/Machine/Ops.lean ====
section
/-!
DEFINITION. The named operations over arrays, inputs and outputs, and the entry of each fault (60_exceptions).
-/

namespace Sys2Proof.Machine

/-! ### Arrays -/

/-- The canonical form of an array: indices strictly rising. -/
abbrev Memory.wf {α : Type} (m : Memory α) : Prop := m.Pairwise (fun a b => a.1 < b.1)

/-- What an array reads as at an index: the listed element, or no value where nothing has been written (R48). -/
def Memory.get {α : Type} (m : Memory α) (i : Nat) : Option α := m.lookup i

/-- `A[base + j] <- xs[j]` for every `j` of `xs`, all at once (R12); every other element is as it was. -/
def Memory.write {α : Type} (m : Memory α) (base : Nat) (xs : List α) : Memory α :=
  m.filter (fun c => c.1 < base)
    ++ xs.zipIdx.map (fun c => (base + c.2, c.1))
    ++ m.filter (fun c => base + xs.length ≤ c.1)

/-- How many elements an array has (R24, R25, R26). For WIN and SPD, whose capacity R27 does not state, the largest `N`
and `K` an admitted configuration gives (log entry 10). WF is bounded by row and by column instead. -/
def Arr.capacity (c : Caps) : Arr → Nat
  | .fb | .fr => 2 * c.nmax
  | .smp | .xw | .xre | .xim | .win => c.nmax
  | .mag | .dbv | .row | .spd => c.nmax / 2
  | .wf => 65536 * c.depthMax

/-- Read `A[i]`: a value, or the fault of the model that says why there is none. -/
def readElem {α : Type} (c : Caps) (a : Arr) (m : Memory α) (i : Nat) : Except Fault α :=
  if i < a.capacity c then
    match m.get i with
    | some x => .ok x
    | none => .error (.unwritten a i)
  else .error (.noElement a i)

/-- The values of `f` over a list of indices, or the first fault. -/
def collect {α : Type} (f : Nat → Except Fault α) : List Nat → Except Fault (List α)
  | [] => .ok []
  | i :: is =>
    match f i with
    | .error e => .error e
    | .ok x =>
      match collect f is with
      | .error e => .error e
      | .ok xs => .ok (x :: xs)

/-- Read `A[0 .. n-1]`. -/
def readFirst {α : Type} (c : Caps) (a : Arr) (m : Memory α) (n : Nat) : Except Fault (List α) :=
  collect (readElem c a m) (List.range n)

/-- Write `A[base ..] <- xs`, within the array's capacity. -/
def writeElems {α : Type} (c : Caps) (a : Arr) (m : Memory α) (base : Nat) (xs : List α) : Except Fault (Memory α) :=
  if base + xs.length ≤ a.capacity c then .ok (m.write base xs) else .error (.noElement a (base + xs.length - 1))

/-- Go on with the value, or stop with the fault. -/
def attempt {α : Type} (r : Except Fault α) (f : α → Result) : Result :=
  match r with
  | .ok x => f x
  | .error e => .fault e

/-! ### The waterfall store (R40, R55) -/

/-- The index of physical cell `(p, j)`. `j` is below 65536 for every 16-bit K, so no two cells share an index. -/
def wfCell (p j : Nat) : Nat := 65536 * p + j

/-- `phys(i) = (WP - 1 - i) mod DEPTH` (R55), a remainder in `[0, DEPTH)` (R11). -/
def phys (wp depth i : Nat) : Nat := (((wp : Int) - 1 - (i : Int)) % (depth : Int)).toNat

/-- Read `WF[p][j]`. The store has `DEPTH_MAX` rows of `floor(NMAX/2)` columns (R40). -/
def wfRead (s : State) (p j : Nat) : Except Fault Value :=
  if p < s.caps.depthMax ∧ j < s.caps.nmax / 2 then
    match s.wf.get (wfCell p j) with
    | some x => .ok x
    | none => .error (.unwritten .wf (wfCell p j))
  else .error (.noElement .wf (wfCell p j))

/-- `MemRead(i, j)`, the logical read (R12, R55). -/
def memRead (s : State) (i j : Nat) : Except Fault Value := wfRead s (phys s.wp.toNat s.depth.toNat i) j

/-- `WF[p][0 ..] <- xs`, one row at once (R58). -/
def wfWriteRow (s : State) (p : Nat) (xs : List Value) : Except Fault (Memory Value) :=
  if xs = [] ∨ (p < s.caps.depthMax ∧ xs.length ≤ s.caps.nmax / 2) then .ok (s.wf.write (wfCell p 0) xs)
  else .error (.noElement .wf (wfCell p (xs.length - 1)))

/-- The snapshot, the `DEPTH x K` grid in logical order (R163). -/
def snapshot (s : State) : Except Fault (List (List Value)) :=
  collect (fun i => collect (memRead s i) (List.range s.k.toNat)) (List.range s.depth.toNat)

/-! ### Inputs (R12) -/

/-- Put back the inputs. -/
def State.withEnv (s : State) (e : Env) : State := { s with env := e }

/-- The next agent (R187), and the state without that input. -/
def takeTurn (s : State) : Turn × State :=
  match s.env.turns with
  | t :: ts => (t, s.withEnv { s.env with turns := ts })
  | [] => (Config.turnDraw s.env.draws, s.withEnv { s.env with draws := s.env.draws + 1 })

/-- The byte source's next answer to `try_read_byte()` (R53, R91). -/
def pollAnswer (s : State) : Option Byte :=
  match s.env.polls with
  | r :: _ => r
  | [] => Config.pollDraw s.env.draws

/-- The inputs after a poll has been answered. -/
def afterPoll (e : Env) : Env :=
  match e.polls with
  | _ :: rs => { e with polls := rs }
  | [] => { e with draws := e.draws + 1 }

/-- The byte source's next answer to `open()` (R179). -/
def openAnswer (s : State) : Bool :=
  match s.env.opens with
  | r :: _ => r
  | [] => Config.openDraw s.env.draws

/-- The inputs after `open()` has been answered. -/
def afterOpen (e : Env) : Env :=
  match e.opens with
  | _ :: rs => { e with opens := rs }
  | [] => { e with draws := e.draws + 1 }

/-- The sink's next answer (R163). -/
def sinkAnswer (s : State) : SinkAnswer :=
  match s.env.sinks with
  | r :: _ => r
  | [] => Config.sinkDraw s.env.draws

/-- The inputs after the sink has been asked. -/
def afterSink (e : Env) : Env :=
  match e.sinks with
  | _ :: rs => { e with sinks := rs }
  | [] => { e with draws := e.draws + 1 }

/-! ### Position and outputs -/

/-- The phase codes of R74. -/
def codeIdle : BitVec 4 := 0
def codePoll : BitVec 4 := 1
def codePush : BitVec 4 := 2
def codeDrain : BitVec 4 := 3
def codeFlush : BitVec 4 := 4
def codeDecode : BitVec 4 := 5
def codeWindow : BitVec 4 := 6
def codeDft : BitVec 4 := 7
def codeMag : BitVec 4 := 8
def codeDb : BitVec 4 := 9
def codeCrop : BitVec 4 := 10
def codeUpdate : BitVec 4 := 11
def codeRender : BitVec 4 := 12
def codeYield : BitVec 4 := 13
def codeStop : BitVec 4 := 14

/-- `PHASE <- p` (R12). -/
def State.goto (s : State) (p : BitVec 4) : State := { s with phase := p }

/-- `emit E` (R12, R13). -/
def State.emit (s : State) (e : Event) : State := { s with hist := s.hist ++ [e] }

/-- The block's answer to a control-port read (R71). -/
def State.answer (s : State) (w : Word) : State := { s with answers := s.answers ++ [w] }

/-! ### Taking a fault (60_exceptions)

There is no return from a fault (R211): the ways forward are an accepted RUN, which begins with `State.clearRecord`,
and reset, `State.hardwareReset`. -/

/-- The five faults, with the codes of R200. -/
inductive FaultCause where
  | sourceUnavailable
  | malformedFrame
  | sinkUnavailable
  | configError
  | badCommand
deriving DecidableEq, Repr

/-- The code of a fault (R200). -/
def FaultCause.code : FaultCause → BitVec 4
  | .sourceUnavailable => 1
  | .malformedFrame => 2
  | .sinkUnavailable => 3
  | .configError => 4
  | .badCommand => 5

/-- Entry of a fatal fault (R207): ERR takes the code, the source is released if it is open (MalformedFrame only),
CANCEL_PEND is cleared, the controller stops. Nothing is saved. -/
def enterFatal (f : FaultCause) (s : State) : State :=
  { s with
    err := f.code
    hist := if f = .malformedFrame then s.hist ++ [.release] else s.hist
    cancelPend := false
    cs := .stopped
    phase := codeIdle }

/-- Entry of SinkUnavailable (R208). -/
def enterSinkUnavailable (s : State) : State := { s with sinkFail := true }

/-- Entry of BadCommand (R209). -/
def enterBadCommand (s : State) : State := { s with badcmd := true }

/-- What an accepted RUN clears before its checks (R177, R211). -/
def State.clearRecord (s : State) : State :=
  { s with err := 0, sinkFail := false, badcmd := false, cancelPend := false }

/-- The cancellation request (R182): latched while Running, ignored while Stopped. Shared by the command and the pin
`cancel_req`. -/
def requestCancel (s : State) : State :=
  match s.cs with
  | .running => { s with cancelPend := true }
  | .stopped => s

/-- The reset input (R225): every piece of the block's state takes its reset value and no event is emitted. The
capacities and the inputs are not the block's state (log entry 19). -/
def State.hardwareReset (s : State) : State := { State.reset with caps := s.caps, env := s.env }

end Sys2Proof.Machine
end

