-- ==== Sys2Proof/Machine/Operands.lean ====
section
/-!
DEFINITION. Operand forms: register names, parameter words, the sample word, the window address, the words of a render
transaction (30_encoding section 2, 10_state section 6).
-/

namespace Sys2Proof.Machine

/-- The control-port registers (10_state R28). -/
inductive RegName where
  | cmd | status | cpi | loopdur | maxspeed | fs | n | depth | k | wp | cnt | wfAddr | wfData | axisAddr | axisData
  | reserved
deriving DecidableEq, Repr

/-- The map of R28: indices 0x0F to 0xFF are reserved (R47). -/
def regName (idx : BitVec 8) : RegName :=
  match idx.toNat with
  | 0x00 => .cmd
  | 0x01 => .status
  | 0x02 => .cpi
  | 0x03 => .loopdur
  | 0x04 => .maxspeed
  | 0x05 => .fs
  | 0x06 => .n
  | 0x07 => .depth
  | 0x08 => .k
  | 0x09 => .wp
  | 0x0A => .cnt
  | 0x0B => .wfAddr
  | 0x0C => .wfData
  | 0x0D => .axisAddr
  | 0x0E => .axisData
  | _ => .reserved

/-- UQ16.16: a 32-bit unsigned integer `r` denotes `r / 65536` (R11, R76). -/
def uq (r : BitVec 32) : ℚ := (r.toNat : ℚ) / 65536

/-- A stored field read as a whole register: the bits above it read 0 (R30 to R46). -/
def zext {m : Nat} (x : BitVec m) : Word := x.setWidth 64

/-- Bits 31:0 of a write word (R186). -/
def low32 (w : Word) : BitVec 32 := w.extractLsb' 0 32

/-- Bits 15:0 of a write word (R186). -/
def low16 (w : Word) : BitVec 16 := w.extractLsb' 0 16

/-- WF_ADDR.ROW, bits 31:16 (R43). -/
def wfAddrRow (a : BitVec 32) : BitVec 16 := a.extractLsb' 16 16

/-- WF_ADDR.COL, bits 15:0 (R43). -/
def wfAddrCol (a : BitVec 32) : BitVec 16 := a.extractLsb' 0 16

/-- The sample word `raw = 256*hi + lo = {hi, lo}` (R75, R56): no mask, no check (R103). -/
def sampleWord (hi lo : Byte) : BitVec 16 := hi ++ lo

/-- Pair the bytes of a frame by position (R57) and convert each pair (R100, R101). A trailing odd byte makes no
sample; DECODE never passes one (R102). -/
def decodeSamples : List Byte → List Value
  | hi :: lo :: bs => Config.num.vdec (sampleWord hi lo) :: decodeSamples bs
  | _ => []

/-- The finite number an IEEE 754 binary64 word denotes: bit 63 sign, bits 62:52 biased exponent, bits 51:0 fraction
(R77); none for an infinity or a not-a-number. R77 gives this format for the hardware from general knowledge (93 G1);
no rule depends on it and the model does not assume it (log entry 1). -/
def binary64 (w : Word) : Option ℚ :=
  let sign : ℚ := if w.extractLsb' 63 1 = 0 then 1 else -1
  let e := (w.extractLsb' 52 11).toNat
  let f := (w.extractLsb' 0 52).toNat
  if e = 2047 then none
  else if e = 0 then some (sign * f / 2 ^ 1074)
  else if 1075 ≤ e then some (sign * (2 ^ 52 + f) * 2 ^ (e - 1075))
  else some (sign * (2 ^ 52 + f) / 2 ^ (1075 - e))

/-- The words of a render transaction (R78): DEPTH, K, the axis, the extent, the matrix in logical row-major order
(log entry 23). -/
def renderWords (matrix : List (List Value)) (xAxis : List Value) (yExtent : Value × Value) : List Word :=
  [BitVec.ofNat 64 matrix.length, BitVec.ofNat 64 xAxis.length]
    ++ xAxis.map Value.enc
    ++ [yExtent.1.enc, yExtent.2.enc]
    ++ (matrix.map (fun r => r.map Value.enc)).flatten

end Sys2Proof.Machine
end

