-- ==== Sys2Proof/Machine/Flags.lean ====
section
/-!
DEFINITION. The status flags and the STATUS word (10_state R41, R30). The block has no arithmetic condition codes.
-/

namespace Sys2Proof.Machine

/-- FRAME_READY, not stored: the predicate `N > 0 and CNT = 2*N` (R41). -/
def frameReady (s : State) : Bool := decide (0 < s.n.toNat ∧ s.cnt.toNat = 2 * s.n.toNat)

/-- FrameStatus `Ready` of a push that leaves the count at `cnt` (R93). -/
def isReady (s : State) (cnt : Nat) : Bool := decide (cnt = 2 * s.n.toNat)

/-- The RUNNING bit, `CS` (R30). -/
def runningBit (s : State) : Bool :=
  match s.cs with
  | .running => true
  | .stopped => false

/-- The STATUS word (R30), most significant field first: reserved 63:16, ERR 15:12, reserved 11:10, INIT_DONE, BADCMD,
SINK_FAIL, CANCEL_PEND, FRAME_READY, PHASE 4:1, RUNNING. -/
def statusWord (s : State) : Word :=
  (0 : BitVec 48) ++ s.err ++ (0 : BitVec 2) ++ BitVec.ofBool s.initDone ++ BitVec.ofBool s.badcmd
    ++ BitVec.ofBool s.sinkFail ++ BitVec.ofBool s.cancelPend ++ BitVec.ofBool (frameReady s) ++ s.phase
    ++ BitVec.ofBool (runningBit s)

end Sys2Proof.Machine
end

