-- ==== Sys2Proof/Machine/Mapper.lean ====
section
/-!
DEFINITION. The Doppler frequency-to-speed mapper: DERIVE, in exact arithmetic, and the configuration check
(43_speed_mapper, 60_exceptions R204).
-/

namespace Sys2Proof.Machine

/-- `N = (cpi_r * fs) div 65536` (R140). -/
def windowSize (cpi fs : BitVec 32) : Nat := cpi.toNat * fs.toNat / 65536

/-- `DEPTH = loop_r div cpi_r` (R141), for `cpi_r > 0`. -/
def rowCount (loopdur cpi : BitVec 32) : Nat := loopdur.toNat / cpi.toNat

/-- `H = N div 2` (R142, R119). -/
def oneSided (n : Nat) : Nat := n / 2

/-- `speed(k) = (k * sample_rate / N) * (C / FC)` in metres per second (R144). -/
def binSpeed (n fs k : Nat) : ℚ := ((k : ℚ) * fs / n) * ((Config.lightSpeed : ℚ) / Config.carrier)

/-- `speed(k) <= max_speed`, compared exactly in integers (R143). -/
def retained (maxspeed n fs k : Nat) : Bool :=
  decide (k * fs * Config.lightSpeed * 65536 ≤ maxspeed * n * Config.carrier)

/-- `K`, the number of bins of `[0, H)` whose speed is at most `max_speed` (R143). -/
def retainedCount (maxspeed n fs h : Nat) : Nat := ((List.range h).filter (retained maxspeed n fs)).length

/-- The candidates `N'`, `DEPTH'`, `H'`, `K'` of DERIVE (R149). -/
structure Derived where
  n : Nat
  depth : Nat
  h : Nat
  k : Nat
deriving DecidableEq, Repr

/-- DERIVE's candidates from the parameter registers (R149). -/
def derive (cpi loopdur maxspeed fs : BitVec 32) : Derived :=
  let n := windowSize cpi fs
  { n := n
    depth := rowCount loopdur cpi
    h := oneSided n
    k := retainedCount maxspeed.toNat n fs.toNat (oneSided n) }

/-- The configuration is bad if any of (a) to (e) holds (R204, R178). -/
def configBad (c : Caps) (cpi : BitVec 32) (d : Derived) : Bool :=
  cpi == 0 || decide (d.n < 2) || decide (c.nmax < d.n) || decide (d.depth < 1) || decide (c.depthMax < d.depth)

/-- MKWIN (R112): `WIN[k] <- num.hann(N, k)` for `k` in `0 .. N-1`. -/
def hannTable (n : Nat) : List Value := (List.range n).map (Config.num.hann n)

/-- MKAXIS (R146): `SPD[k] <- num.speed(N, fs, k)` for `k` in `0 .. K-1`. -/
def speedTable (n fs k : Nat) : List Value := (List.range k).map (Config.num.speed n fs)

/-- WFINIT (R156): the zero row in rows `0 .. DEPTH-1`, columns `0 .. K-1`; other cells are not written. -/
def zeroFill (wf : Memory Value) (k : Nat) : Nat → Memory Value
  | 0 => wf
  | p + 1 => (zeroFill wf k p).write (wfCell p 0) (List.replicate k Value.zero)

end Sys2Proof.Machine
end

