-- ==== Sys2Proof/Machine/Framer.lean ====
section
/-!
DEFINITION. Byte framer and sample decoder: POLL, PUSH, DRAIN, FLUSH, DECODE (40_framer_decoder).
-/

namespace Sys2Proof.Machine

/-- What the source's answer to a poll does (R91): none leaves the operation where it is, a byte goes to PUSH. -/
def afterAnswer (r : Option Byte) (s : State) : State :=
  match r with
  | none => s.goto codePoll
  | some b => { s with byte := b, phase := codePush }

/-- POLL (R91): a pending cancellation wins over a byte, and then no poll is made. -/
def execPoll (s : State) : Result :=
  .next (if s.cancelPend then s.goto codeStop else afterAnswer (pollAnswer s) (s.withEnv (afterPoll s.env)))

/-- PUSH (R92). A push on a full framer stores nothing and is Ready (R94; log entry 12). -/
def execPush (s : State) : Result :=
  if 2 * s.n.toNat ≤ s.cnt.toNat then .next (s.goto codeDrain)
  else
    attempt (writeElems s.caps .fb s.fb s.cnt.toNat [s.byte]) fun fb =>
      .next { s with
        fb := fb
        cnt := s.cnt + 1
        phase := if isReady s (s.cnt.toNat + 1) then codeDrain else codePoll }

/-- DRAIN (R95): the frame is handed over and the framer emptied. -/
def execDrain (s : State) : Result :=
  attempt (readFirst s.caps .fb s.fb (2 * s.n.toNat)) fun bs =>
    attempt (writeElems s.caps .fr s.fr 0 bs) fun fr =>
      .next { s with
        fr := fr
        frlen := BitVec.ofNat 18 (2 * s.n.toNat)
        cnt := 0
        phase := codeFlush }

/-- FLUSH (R98). -/
def execFlush (s : State) : Result := .next ((s.emit .flush).goto codeDecode)

/-- DECODE (R100): an odd FRLEN writes no sample and takes MalformedFrame (R102). -/
def execDecode (s : State) : Result :=
  if s.frlen.toNat % 2 = 1 then .next (enterFatal .malformedFrame s)
  else
    attempt (readFirst s.caps .fr s.fr s.frlen.toNat) fun bs =>
      attempt (writeElems s.caps .smp s.smp 0 (decodeSamples bs)) fun smp =>
        .next { s with smp := smp, phase := codeWindow }

end Sys2Proof.Machine
end

