-- ==== Sys2Proof/Syntax.lean ====
section
/-!
DEFINITION. The operations of the block, one constructor per row of the opcode table (30_encoding R80), and the three
formats that carry them (R70).
-/

namespace Sys2Proof

/-- The 18 operations of 30_encoding R80: two bus operations, two commands, fourteen phase operations. -/
inductive Instr where
  /-- Control-port read (R185). `wdata` is ignored by a read (R71) and so is no operand. -/
  | rdreg (idx : BitVec 8)
  /-- Control-port write (R186). -/
  | wrreg (idx : BitVec 8) (wdata : Word)
  /-- Command 0x01 (R177). -/
  | run
  /-- Command 0x02 (R182). -/
  | cancel
  /-- Phase 1 (R91). -/
  | poll
  /-- Phase 2 (R92). -/
  | push
  /-- Phase 3 (R95). -/
  | drain
  /-- Phase 4 (R98). -/
  | flush
  /-- Phase 5 (R100). -/
  | decode
  /-- Phase 6 (R113). -/
  | window
  /-- Phase 7 (R115). -/
  | dft
  /-- Phase 8 (R118). -/
  | mag
  /-- Phase 9 (R131). -/
  | db
  /-- Phase 10 (R133). -/
  | crop
  /-- Phase 11 (R159). -/
  | update
  /-- Phase 12 (R163). -/
  | render
  /-- Phase 13 (R184). -/
  | yield
  /-- Phase 14 (R190). -/
  | stop
deriving DecidableEq, Repr

/-- The three formats of 30_encoding R70, all of fixed length (R81). -/
inductive Encoded where
  /-- A control-port transaction `{we, idx[7:0], wdata[63:0]}` (R71). -/
  | bus (p : BitVec 73)
  /-- The word written to CMD, `ZERO` in bits 63:8 and `OP` in bits 7:0 (R72). -/
  | cmd (w : Word)
  /-- The 4-bit code in PHASE (R74). -/
  | phase (c : BitVec 4)
deriving DecidableEq, Repr

end Sys2Proof
end

