-- ==== Sys2Proof/WellFormed.lean ====
section
/-!
DEFINITION. Which terms of `Instr` the decoders produce.
-/

namespace Sys2Proof

/-- A term is well formed unless it spells a command as a plain register write: the host-side decoder of 30_encoding
R80 reads a write of 0x01 or 0x02 to CMD as RUN or CANCEL (log entry 14). Such a term still has its meaning, the
command's. -/
def Instr.wellFormed : Instr → Bool
  | .wrreg idx wdata => !(idx == 0 && (wdata == 1 || wdata == 2))
  | _ => true

/-- `wellFormed` as a proposition. -/
abbrev WellFormed (i : Instr) : Prop := i.wellFormed = true

end Sys2Proof
end

