-- ==== Sys2Proof/Decode.lean ====
section
/-!
DEFINITION. The decoders of 30_encoding R80, total, rejecting by name, and the encoder written from the same tables.
-/

namespace Sys2Proof

/-- Why a word is no operation. -/
inductive DecodeReject where
  /-- PHASE code 0, IDLE: no operation is performed (R74). -/
  | idlePhase
  /-- PHASE code 15, reserved and never held (R79). -/
  | reservedPhase
  /-- A CMD word with `ZERO != 0` or `OP` not in 0x01, 0x02 (R79). -/
  | illegalCommand (w : Word)
deriving DecidableEq, Repr

/-- Format PHASE (R74): the identity on the 4-bit code. -/
def decodePhase (c : BitVec 4) : Except DecodeReject Instr :=
  match c.toNat with
  | 0 => .error .idlePhase
  | 1 => .ok .poll
  | 2 => .ok .push
  | 3 => .ok .drain
  | 4 => .ok .flush
  | 5 => .ok .decode
  | 6 => .ok .window
  | 7 => .ok .dft
  | 8 => .ok .mag
  | 9 => .ok .db
  | 10 => .ok .crop
  | 11 => .ok .update
  | 12 => .ok .render
  | 13 => .ok .yield
  | 14 => .ok .stop
  | _ => .error .reservedPhase

/-- `ZERO`, bits 63:8 of a CMD word (R72). -/
def cmdZero (w : Word) : BitVec 56 := w.extractLsb' 8 56

/-- `OP`, bits 7:0 of a CMD word (R72). -/
def cmdOp (w : Word) : BitVec 8 := w.extractLsb' 0 8

/-- Format CMD (R72, R73). -/
def decodeCommand (w : Word) : Except DecodeReject Instr :=
  if cmdZero w ≠ 0 then .error (.illegalCommand w)
  else if cmdOp w = 0x01 then .ok .run
  else if cmdOp w = 0x02 then .ok .cancel
  else .error (.illegalCommand w)

/-- `we`, bit 72 of a transaction (R71). -/
def busWe (p : BitVec 73) : BitVec 1 := p.extractLsb' 72 1

/-- `idx`, bits 71:64 of a transaction (R71). -/
def busIdx (p : BitVec 73) : BitVec 8 := p.extractLsb' 64 8

/-- `wdata`, bits 63:0 of a transaction (R71). -/
def busData (p : BitVec 73) : Word := p.extractLsb' 0 64

/-- The transaction `{we, idx[7:0], wdata[63:0]}` (R71). -/
def busPattern (we : BitVec 1) (idx : BitVec 8) (wdata : Word) : BitVec 73 := we ++ idx ++ wdata

/-- Format BUS, the host-side decoder of R80: `we = 0` is RDREG; `we = 1` with `idx != 0` is WRREG; `we = 1` with
`idx = 0` is a command. An illegal command word stays a WRREG to CMD, whose meaning enters BadCommand (R186). -/
def decodeBus (p : BitVec 73) : Instr :=
  if busWe p = 0 then .rdreg (busIdx p)
  else if busIdx p = 0 then
    match decodeCommand (busData p) with
    | .ok i => i
    | .error _ => .wrreg 0 (busData p)
  else .wrreg (busIdx p) (busData p)

/-- The decoder of the three formats (R70). -/
def decode : Encoded → Except DecodeReject Instr
  | .bus p => .ok (decodeBus p)
  | .cmd w => decodeCommand w
  | .phase c => decodePhase c

/-- The word of each operation, in the format of its row (R71, R73, R74). A read's `wdata` is written as 0. -/
def encode : Instr → Encoded
  | .rdreg idx => .bus (busPattern 0 idx 0)
  | .wrreg idx wdata => .bus (busPattern 1 idx wdata)
  | .run => .cmd 0x01
  | .cancel => .cmd 0x02
  | .poll => .phase 1
  | .push => .phase 2
  | .drain => .phase 3
  | .flush => .phase 4
  | .decode => .phase 5
  | .window => .phase 6
  | .dft => .phase 7
  | .mag => .phase 8
  | .db => .phase 9
  | .crop => .phase 10
  | .update => .phase 11
  | .render => .phase 12
  | .yield => .phase 13
  | .stop => .phase 14

/-- The transaction by which the host issues an operation: a command is a write to CMD (R29, R72). A phase operation
is issued by nobody (R70). -/
def hostPattern : Instr → Option (BitVec 73)
  | .rdreg idx => some (busPattern 0 idx 0)
  | .wrreg idx wdata => some (busPattern 1 idx wdata)
  | .run => some (busPattern 1 0 0x01)
  | .cancel => some (busPattern 1 0 0x02)
  | _ => none

/-- An opcode-table word in the format its length says: up to 8 bits a phase code, up to 64 a command word, more a bus
pattern (log entry 15). A word with bits beyond its format is none. -/
def tableFormat (nbits w : Nat) : Option Encoded :=
  if nbits ≤ 8 then (if w < 2 ^ 4 then some (.phase (BitVec.ofNat 4 w)) else none)
  else if nbits ≤ 64 then (if w < 2 ^ 64 then some (.cmd (BitVec.ofNat 64 w)) else none)
  else if w < 2 ^ 73 then some (.bus (BitVec.ofNat 73 w)) else none

/-- The instruction the decoder reads from an opcode-table word. -/
def decodeTableWord (nbits w : Nat) : Option Instr :=
  match tableFormat nbits w with
  | none => none
  | some e =>
    match decode e with
    | .ok i => some i
    | .error _ => none

end Sys2Proof
end

