-- ==== Sys2Proof/Machine/Control.lean ====
section
/-!
DEFINITION. The controller's own operations YIELD and STOP, and the commands RUN and CANCEL (45_controller).
-/

namespace Sys2Proof.Machine

/-- The initialisation of a RUN whose checks have passed (R177, R180): latch, MKWIN, MKAXIS, WFINIT, clear the framer,
enter Running at POLL. The latched integers fit their registers when the configuration is admissible (log entry 21). -/
def initialise (d : Derived) (s : State) : State :=
  { s with
    n := BitVec.ofNat 17 d.n
    depth := BitVec.ofNat 17 d.depth
    h := BitVec.ofNat 16 d.h
    k := BitVec.ofNat 16 d.k
    yext := s.loopdur
    win := s.win.write 0 (hannTable d.n)
    spd := s.spd.write 0 (speedTable d.n s.fs.toNat d.k)
    wf := zeroFill s.wf d.k d.depth
    wp := 0
    cnt := 0
    frlen := 0
    initDone := true
    cs := .running
    phase := codePoll }

/-- RUN accepted (R177): clear the record, check the configuration before the source is touched (R178), open the source
(R179), initialise. The clearing stands on a refused RUN too (log entry 22). -/
def acceptRun (s : State) : State :=
  let d := derive s.cpi s.loopdur s.maxspeed s.fs
  let s := s.clearRecord
  if configBad s.caps s.cpi d then enterFatal .configError s
  else
    let opened := (s.emit .openSource).withEnv (afterOpen s.env)
    if openAnswer s then initialise d opened else enterFatal .sourceUnavailable opened

/-- The command RUN (R177): accepted only while Stopped, else BadCommand (R181). Shared by the command's two ways in,
the instruction RUN and a write to CMD. -/
def runCommand (s : State) : State :=
  match s.cs with
  | .running => enterBadCommand s
  | .stopped => acceptRun s

/-- RUN (R177). -/
def execRun (s : State) : Result := .next (runCommand s)

/-- CANCEL (R182). -/
def execCancel (s : State) : Result := .next (requestCancel s)

/-- YIELD (R184). -/
def execYield (s : State) : Result := .next (if s.cancelPend then s.goto codeStop else s.goto codePoll)

/-- STOP (R190): one event, `release()`; everything but CS, PHASE and CANCEL_PEND is kept. -/
def execStop (s : State) : Result :=
  .next { s.emit .release with cancelPend := false, cs := .stopped, phase := codeIdle }

end Sys2Proof.Machine
end

