-- ==== Sys2Proof/Machine/Port.lean ====
section
/-!
DEFINITION. The bus operations RDREG and WRREG (45_controller R185, R186; 10_state R28 to R47).
-/

namespace Sys2Proof.Machine

/-- WF_DATA (R44): the logical entry WF_ADDR names, or 0 out of range. -/
def wfData (s : State) : Except Fault Word :=
  let r := (wfAddrRow s.wfAddr).toNat
  let c := (wfAddrCol s.wfAddr).toNat
  if r < s.depth.toNat ∧ c < s.k.toNat then (memRead s r c).map Value.enc else .ok 0

/-- AXIS_DATA (R46): the axis entry AXIS_ADDR names, or 0 out of range. -/
def axisData (s : State) : Except Fault Word :=
  if s.axisAddr.toNat < s.k.toNat then (readElem s.caps .spd s.spd s.axisAddr.toNat).map Value.enc else .ok 0

/-- The read value of a register (R28 to R47). -/
def readReg (s : State) : RegName → Except Fault Word
  | .cmd => .ok 0
  | .status => .ok (statusWord s)
  | .cpi => .ok (zext s.cpi)
  | .loopdur => .ok (zext s.loopdur)
  | .maxspeed => .ok (zext s.maxspeed)
  | .fs => .ok (zext s.fs)
  | .n => .ok (zext s.n)
  | .depth => .ok (zext s.depth)
  | .k => .ok (zext s.k)
  | .wp => .ok (zext s.wp)
  | .cnt => .ok (zext s.cnt)
  | .wfAddr => .ok (zext s.wfAddr)
  | .wfData => wfData s
  | .axisAddr => .ok (zext s.axisAddr)
  | .axisData => axisData s
  | .reserved => .ok 0

/-- A word written to CMD (R29, R73): a command, or BadCommand (R205). -/
def writeCmd (w : Word) (s : State) : State :=
  match decodeCommand w with
  | .ok .run => runCommand s
  | .ok .cancel => requestCancel s
  | _ => enterBadCommand s

/-- A register write (R186): read-only registers and reserved indices ignore it (R47). -/
def writeReg (s : State) (r : RegName) (w : Word) : State :=
  match r with
  | .cmd => writeCmd w s
  | .cpi => { s with cpi := low32 w }
  | .loopdur => { s with loopdur := low32 w }
  | .maxspeed => { s with maxspeed := low32 w }
  | .fs => { s with fs := low32 w }
  | .wfAddr => { s with wfAddr := low32 w }
  | .axisAddr => { s with axisAddr := low16 w }
  | .status | .n | .depth | .k | .wp | .cnt | .wfData | .axisData | .reserved => s

/-- RDREG (R185): the block answers the register's value and writes nothing. -/
def execRdreg (idx : BitVec 8) (s : State) : Result :=
  attempt (readReg s (regName idx)) fun w => .next (s.answer w)

/-- WRREG (R186). -/
def execWrreg (idx : BitVec 8) (wdata : Word) (s : State) : Result := .next (writeReg s (regName idx) wdata)

end Sys2Proof.Machine
end

