-- ==== Sys2Proof/Machine/Spectral.lean ====
section
/-!
DEFINITION. The spectral processor: WINDOW, DFT, MAG (41_window_fft), DB, CROP (42_db_converter).
-/

namespace Sys2Proof.Machine

/-- WINDOW (R113): `XW[n] <- num.mul(SMP[n], WIN[n])`. -/
def execWindow (s : State) : Result :=
  attempt (readFirst s.caps .smp s.smp s.n.toNat) fun xs =>
    attempt (readFirst s.caps .win s.win s.n.toNat) fun ws =>
      attempt (writeElems s.caps .xw s.xw 0 (List.zipWith Config.num.mul xs ws)) fun xw =>
        .next { s with xw := xw, phase := codeDft }

/-- The `n` bins of the transform of `xs` (R115). -/
def bins (n : Nat) (xs : List Value) : List (Value × Value) := (List.range n).map (Config.num.dft n xs)

/-- DFT (R115): `(XRE, XIM) <- num.dft(N, XW)`, all N bins (log entry 20). -/
def execDft (s : State) : Result :=
  attempt (readFirst s.caps .xw s.xw s.n.toNat) fun xs =>
    attempt (writeElems s.caps .xre s.xre 0 ((bins s.n.toNat xs).map Prod.fst)) fun xre =>
      attempt (writeElems s.caps .xim s.xim 0 ((bins s.n.toNat xs).map Prod.snd)) fun xim =>
        .next { s with xre := xre, xim := xim, phase := codeMag }

/-- MAG (R118): `MAG[k] <- num.mag(XRE[k], XIM[k])` for the one-sided bins (R119). -/
def execMag (s : State) : Result :=
  attempt (readFirst s.caps .xre s.xre s.h.toNat) fun re =>
    attempt (readFirst s.caps .xim s.xim s.h.toNat) fun im =>
      attempt (writeElems s.caps .mag s.mag 0 (List.zipWith Config.num.mag re im)) fun mag =>
        .next { s with mag := mag, phase := codeDb }

/-- DB (R131): `DBV[k] <- num.db(MAG[k])` for the one-sided bins. -/
def execDb (s : State) : Result :=
  attempt (readFirst s.caps .mag s.mag s.h.toNat) fun ms =>
    attempt (writeElems s.caps .dbv s.dbv 0 (ms.map Config.num.db)) fun dbv =>
      .next { s with dbv := dbv, phase := codeCrop }

/-- CROP (R133): `ROW[k] <- DBV[k]` for the retained bins. -/
def execCrop (s : State) : Result :=
  attempt (readFirst s.caps .dbv s.dbv s.k.toNat) fun ds =>
    attempt (writeElems s.caps .row s.row 0 ds) fun row =>
      .next { s with row := row, phase := codeUpdate }

end Sys2Proof.Machine
end

