-- ==== Sys2Proof/Machine/Waterfall.lean ====
section
/-!
DEFINITION. The waterfall ring buffer: UPDATE and RENDER (44_waterfall).
-/

namespace Sys2Proof.Machine

/-- `(WP + 1) mod DEPTH` (R159). With `DEPTH = 0`, in no reachable state, it is a free value (log entry 13). -/
def nextWp (wp : BitVec 16) (depth : BitVec 17) : BitVec 16 :=
  if depth = 0 then Config.wpOfNoRows wp else BitVec.ofNat 16 ((wp.toNat + 1) % depth.toNat)

/-- UPDATE (R159): the oldest row is overwritten and the pointer moves on, as one action (R58). -/
def execUpdate (s : State) : Result :=
  attempt (readFirst s.caps .row s.row s.k.toNat) fun xs =>
    attempt (wfWriteRow s s.wp.toNat xs) fun wf =>
      .next { s with wf := wf, wp := nextWp s.wp s.depth, phase := codeRender }

/-- `y_extent`, `[0, loop_duration]` as given at RUN (R164). -/
def yExtent (yext : BitVec 32) : Value × Value := (Value.zero, Config.num.ofparam (uq yext))

/-- What the sink's answer does (R163): `ok` and `fail` complete the operation, `fail` with SinkUnavailable (R208);
without an answer the operation waits (corner case 4, R235). -/
def afterRender (a : SinkAnswer) (s : State) : State :=
  match a with
  | .ok => { s with renderOpen := false, phase := codeYield }
  | .fail => { enterSinkUnavailable s with renderOpen := false, phase := codeYield }
  | .noAnswer => { s with renderOpen := true, phase := codeRender }

/-- RENDER (R163): emit the snapshot with its axes, then take the sink's answer. A transaction that is waiting for its
answer is not emitted again (log entry 7). -/
def execRender (s : State) : Result :=
  attempt (snapshot s) fun matrix =>
    attempt (readFirst s.caps .spd s.spd s.k.toNat) fun axis =>
      .next (afterRender (sinkAnswer s)
        ((if s.renderOpen then s else s.emit (.render matrix axis (yExtent s.yext))).withEnv (afterSink s.env)))

end Sys2Proof.Machine
end

