-- ==== Sys2Proof/Machine/Dispatch.lean ====
section
/-!
DEFINITION. One arm per operation (30_encoding R80).
-/

namespace Sys2Proof.Machine

def exec (i : Instr) (s : State) : Host.Outcome State Fault Refusal :=
  match i with
  | .rdreg idx => Sys2Proof.Machine.execRdreg idx s
  | .wrreg idx wdata => Sys2Proof.Machine.execWrreg idx wdata s
  | .run => Sys2Proof.Machine.execRun s
  | .cancel => Sys2Proof.Machine.execCancel s
  | .poll => Sys2Proof.Machine.execPoll s
  | .push => Sys2Proof.Machine.execPush s
  | .drain => Sys2Proof.Machine.execDrain s
  | .flush => Sys2Proof.Machine.execFlush s
  | .decode => Sys2Proof.Machine.execDecode s
  | .window => Sys2Proof.Machine.execWindow s
  | .dft => Sys2Proof.Machine.execDft s
  | .mag => Sys2Proof.Machine.execMag s
  | .db => Sys2Proof.Machine.execDb s
  | .crop => Sys2Proof.Machine.execCrop s
  | .update => Sys2Proof.Machine.execUpdate s
  | .render => Sys2Proof.Machine.execRender s
  | .yield => Sys2Proof.Machine.execYield s
  | .stop => Sys2Proof.Machine.execStop s

end Sys2Proof.Machine
end

