-- ==== Sys2Proof/Machine/Fetch.lean ====
section
/-!
DEFINITION. What the next step is: the agent whose turn it is and the operation it performs (R20, R176, R187), and how
an operation is put there.
-/

namespace Sys2Proof.Machine

/-- What a step does. -/
inductive Fetched where
  /-- An operation: the host's transaction, or the controller's operation of this phase. -/
  | instr (i : Instr)
  /-- The controller's turn while no operation is to be performed. -/
  | idle
  /-- A pulse on `cancel_req` (R182). -/
  | cancelReq
  /-- The reset input (R225). -/
  | rst
  /-- The controller, Running, at PHASE 15 (R79). -/
  | reservedPhase
deriving DecidableEq, Repr

/-- The controller's next operation (R20, R22): none while Stopped, and none at code 0 (log entry 18). -/
def controllerFetch (s : State) : Fetched :=
  match s.cs with
  | .stopped => .idle
  | .running =>
    match decodePhase s.phase with
    | .ok i => .instr i
    | .error .reservedPhase => .reservedPhase
    | .error _ => .idle

/-- What an agent's turn does. -/
def turnFetch (t : Turn) (s : State) : Fetched :=
  match t with
  | .controller => controllerFetch s
  | .bus p => .instr (decodeBus p)
  | .cancelReq => .cancelReq
  | .rst => .rst

/-- What the next step does, and the state without the turn it takes. -/
def fetch (s : State) : Fetched × State :=
  let (t, s') := takeTurn s
  (turnFetch t s', s')

/-- Let `t` be the next turn. -/
def State.giveTurn (s : State) (t : Turn) : State := s.withEnv { s.env with turns := t :: s.env.turns }

/-- Place an encoded operation where the next step takes it: a transaction or a command word is the host's next
transaction (a command is a write to CMD, R29); a phase code goes into PHASE with the controller Running and next to
move (log entry 15). -/
def place (s : State) : Encoded → State
  | .bus p => s.giveTurn (.bus p)
  | .cmd w => s.giveTurn (.bus (busPattern 1 0 w))
  | .phase c => { s.giveTurn .controller with cs := .running, phase := c }

/-- Place an opcode-table word. -/
def placeTableWord (s : State) (nbits w : Nat) : State :=
  match tableFormat nbits w with
  | none => s
  | some e => place s e

end Sys2Proof.Machine
end

