-- ==== Sys2Proof/Machine/Step.lean ====
section
/-!
DEFINITION. One step of the machine (R20, R187): the agent whose turn it is acts.
-/

namespace Sys2Proof.Machine

/-- One step: take the next turn, fetch, and act. It has no duration (log entry 24). -/
def step (s : State) : Host.Outcome State Fault Refusal :=
  match fetch s with
  | (.instr i, s') => exec i s'
  | (.idle, s') => .next s'
  | (.cancelReq, s') => .next (requestCancel s')
  | (.rst, s') => .next s'.hardwareReset
  | (.reservedPhase, _) => .fault .reservedPhase

/-- The state whose next step runs the opcode-table word `w`. -/
def State.withFetchWord (s : State) (nbits w : Nat) : State := placeTableWord s nbits w

end Sys2Proof.Machine
end

