-- ==== Sys2Proof/Safety.lean ====
section
/-!
DEFINITION. What counts as a legal state and a safe run: the invariants of 10_state R49, with what makes them inductive,
the edges of the phase graph (45_controller R176), and the named premises of 70_reset R229 and 00_scope R9 (NP5).
-/

namespace Sys2Proof.Machine

/-- Every element `A[0 .. n-1]` has been written. -/
abbrev Memory.writtenBelow {α : Type} (m : Memory α) (n : Nat) : Prop := ∀ i < n, (m.get i).isSome = true

/-- The dimensions of an initialised machine (R49 I2), within the capacities of R6. -/
abbrev DimsOk (s : State) : Prop :=
  2 ≤ s.n.toNat ∧ s.n.toNat ≤ s.caps.nmax ∧ 1 ≤ s.depth.toNat ∧ s.depth.toNat ≤ s.caps.depthMax
    ∧ s.h.toNat = s.n.toNat / 2 ∧ 1 ≤ s.k.toNat ∧ s.k.toNat ≤ s.h.toNat

/-- The latched state of a machine no RUN has initialised (R48). -/
abbrev Uninitialised (s : State) : Prop :=
  s.n = 0 ∧ s.depth = 0 ∧ s.h = 0 ∧ s.k = 0 ∧ s.wp = 0 ∧ s.cnt = 0 ∧ s.frlen = 0

/-- Every array is in canonical form. -/
abbrev MemoriesCanonical (s : State) : Prop :=
  Memory.wf s.fb ∧ Memory.wf s.fr ∧ Memory.wf s.smp ∧ Memory.wf s.xw ∧ Memory.wf s.xre ∧ Memory.wf s.xim
    ∧ Memory.wf s.mag ∧ Memory.wf s.dbv ∧ Memory.wf s.row ∧ Memory.wf s.win ∧ Memory.wf s.spd ∧ Memory.wf s.wf

/-- Every cell of the waterfall in use has been written (R156). -/
abbrev WaterfallWritten (s : State) : Prop :=
  ∀ p < s.depth.toNat, ∀ j < s.k.toNat, (s.wf.get (wfCell p j)).isSome = true

/-- The arrays a phase reads have been written by the phase before it (R26). -/
abbrev FrameWritten (s : State) : Prop :=
  (s.phase = codeFlush ∨ s.phase = codeDecode → s.frlen.toNat = 2 * s.n.toNat)
    ∧ (s.phase = codeWindow → s.smp.writtenBelow s.n.toNat)
    ∧ (s.phase = codeDft → s.xw.writtenBelow s.n.toNat)
    ∧ (s.phase = codeMag → s.xre.writtenBelow s.h.toNat ∧ s.xim.writtenBelow s.h.toNat)
    ∧ (s.phase = codeDb → s.mag.writtenBelow s.h.toNat)
    ∧ (s.phase = codeCrop → s.dbv.writtenBelow s.h.toNat)
    ∧ (s.phase = codeUpdate → s.row.writtenBelow s.k.toNat)

/-- The invariant of the machine: I1 to I6 of R49, with the facts that make them inductive. I3's "CNT = 2*N only while
PHASE = DRAIN" is read for `N > 0`, as FRAME_READY is (R41; log entry 17). -/
structure Inv (s : State) : Prop where
  caps_ok : s.caps.Ok
  /-- I1. -/
  idle_iff_stopped : s.phase = codeIdle ↔ s.cs = .stopped
  /-- R79: PHASE code 15 is never held. -/
  phase_valid : s.phase ≠ 15
  /-- I2. -/
  dims : s.initDone = true → DimsOk s
  uninitialised : s.initDone = false → Uninitialised s
  running_initialised : s.cs = .running → s.initDone = true
  /-- I3. -/
  cnt_le : s.cnt.toNat ≤ 2 * s.n.toNat
  /-- I3. -/
  full_iff_drain : s.initDone = true → (s.cnt.toNat = 2 * s.n.toNat ↔ s.phase = codeDrain)
  /-- I4. -/
  wp_lt : s.initDone = true → s.wp.toNat < s.depth.toNat
  /-- I5. -/
  frlen_even : s.frlen.toNat = 0 ∨ s.frlen.toNat = 2 * s.n.toNat
  /-- I6. -/
  running_no_error : s.cs = .running → s.err = 0
  /-- R200: the codes ERR can hold. -/
  err_codes : s.err = 0 ∨ s.err = 1 ∨ s.err = 2 ∨ s.err = 4
  /-- R182: a request while Stopped is not remembered. -/
  pending_running : s.cancelPend = true → s.cs = .running
  waiting_in_render : s.renderOpen = true → s.phase = codeRender
  canonical : MemoriesCanonical s
  framer_written : s.fb.writtenBelow s.cnt.toNat
  frame_written : s.fr.writtenBelow s.frlen.toNat
  /-- R27: WIN holds the window coefficients of the latched N. -/
  window_table : ∀ i < s.n.toNat, s.win.get i = some (Config.num.hann s.n.toNat i)
  axis_written : s.spd.writtenBelow s.k.toNat
  waterfall_written : WaterfallWritten s
  working_written : FrameWritten s

/-- A safe state: its next step neither faults nor refuses. -/
def Safe (s : State) : Prop := ∃ t, step s = .next t

/-- The edges of the phase graph with their conditions (R176), for the controller's turn in state `s`: `Edge s p` says
that PHASE may go to `p`. The wait of RENDER for its answer (R235) is no edge. -/
inductive Edge (s : State) : BitVec 4 → Prop where
  | pollStop : s.phase = codePoll → s.cancelPend = true → Edge s codeStop
  | pollPoll : s.phase = codePoll → s.cancelPend = false → pollAnswer s = none → Edge s codePoll
  | pollPush (b : Byte) : s.phase = codePoll → s.cancelPend = false → pollAnswer s = some b → Edge s codePush
  | pushDrain : s.phase = codePush → s.cnt.toNat + 1 = 2 * s.n.toNat → Edge s codeDrain
  | pushPoll : s.phase = codePush → s.cnt.toNat + 1 ≠ 2 * s.n.toNat → Edge s codePoll
  | drainFlush : s.phase = codeDrain → Edge s codeFlush
  | flushDecode : s.phase = codeFlush → Edge s codeDecode
  | decodeWindow : s.phase = codeDecode → s.frlen.toNat % 2 = 0 → Edge s codeWindow
  | decodeIdle : s.phase = codeDecode → s.frlen.toNat % 2 = 1 → Edge s codeIdle
  | windowDft : s.phase = codeWindow → Edge s codeDft
  | dftMag : s.phase = codeDft → Edge s codeMag
  | magDb : s.phase = codeMag → Edge s codeDb
  | dbCrop : s.phase = codeDb → Edge s codeCrop
  | cropUpdate : s.phase = codeCrop → Edge s codeUpdate
  | updateRender : s.phase = codeUpdate → Edge s codeRender
  | renderYield : s.phase = codeRender → sinkAnswer s ≠ .noAnswer → Edge s codeYield
  | yieldStop : s.phase = codeYield → s.cancelPend = true → Edge s codeStop
  | yieldPoll : s.phase = codeYield → s.cancelPend = false → Edge s codePoll
  | stopIdle : s.phase = codeStop → Edge s codeIdle

/-- Logical row `i` of the waterfall, `L[i]` (R157): its `K` entries, `none` where a cell is unwritten. -/
def logicalRow (s : State) (i : Nat) : List (Option Value) :=
  (List.range s.k.toNat).map fun j => s.wf.get (wfCell (phys s.wp.toNat s.depth.toNat i) j)

/-- The SpectrumRow, the `K` entries of ROW (R26). -/
def spectrumRow (s : State) : List (Option Value) := (List.range s.k.toNat).map s.row.get

/-- The zero row of `K` entries (R156). -/
def zeroRow (s : State) : List (Option Value) := List.replicate s.k.toNat (some Value.zero)

/-- The operations of a list, one after the other, as the controller performs them (R61). -/
def execAll : List Instr → State → Result
  | [], s => .next s
  | i :: is, s =>
    match exec i s with
    | .next t => execAll is t
    | .fault f => .fault f
    | .refused r => .refused r

/-- Updates with the rows of a list, the first row first: each row is put into ROW and UPDATE performed (R168). -/
def updateWith : List (List Value) → State → Result
  | [], s => .next s
  | r :: rs, s =>
    match exec .update { s with row := s.row.write 0 r } with
    | .next t => updateWith rs t
    | .fault f => .fault f
    | .refused e => .refused e

/-! ### What R188 says cannot move the controller -/

/-- Two answers of the sink that differ at most in `ok` against `fail`. -/
def SameSinkKind (a a' : SinkAnswer) : Prop := a = .noAnswer ↔ a' = .noAnswer

/-- Two inputs with the same turns and answers to `open()`, whose polls differ at most in the bytes delivered and whose
sinks at most in `ok` against `fail`. -/
structure Env.SameKind (e e' : Env) : Prop where
  turns : e'.turns = e.turns
  polls : e'.polls.map Option.isSome = e.polls.map Option.isSome
  opens : e'.opens = e.opens
  sinks : List.Forall₂ SameSinkKind e.sinks e'.sinks
  draws : e'.draws = e.draws

/-- Two states that agree in all that selects an edge of the phase graph (R188): the controller's position and wait, the
count, the size, the cancellation latch, and the inputs up to what R188 excludes. -/
structure SameCourse (s s' : State) : Prop where
  env : s.env.SameKind s'.env
  cs : s'.cs = s.cs
  phase : s'.phase = s.phase
  cnt : s'.cnt = s.cnt
  n : s'.n = s.n
  cancelPend : s'.cancelPend = s.cancelPend
  renderOpen : s'.renderOpen = s.renderOpen

/-! ### The environment's duties (R229), as named premises (log entry 28)

None is a property of the block, and no operation assumes one. -/

/-- `t` is a state some run from `s` reaches. -/
def Reached (s t : State) : Prop := ∃ k, Sys2Proof.core.run k s = .next t

/-- The next step is a RENDER that the sink does not answer. -/
def RenderWaits (s : State) : Prop :=
  (takeTurn s).1 = .controller ∧ s.cs = .running ∧ s.phase = codeRender ∧ sinkAnswer (takeTurn s).2 = .noAnswer

/-- Duty of the byte source: it answers polls without blocking, in every run from `s`. POLL takes its answer in the one
operation that makes the poll (R91, R187), so a poll the source keeps waiting is a POLL that is not performed: the
controller gets no turn. The premise is that where a poll is to be made the controller's turn comes, unless a
cancellation does away with the poll or PHASE is moved from outside (log entry 27). -/
def SourceAnswers (s : State) : Prop :=
  ∀ t, Reached s t → t.cs = .running → t.phase = codePoll → t.cancelPend = false →
    ∃ u, Reached t u ∧ ((takeTurn u).1 = .controller ∨ u.cancelPend = true ∨ u.phase ≠ codePoll)

/-- `WaitsInARow b s`: the controller's next `b` turns are RENDER waiting, whatever other agents do in between. -/
inductive WaitsInARow : Nat → State → Prop where
  | none (s : State) : WaitsInARow 0 s
  | wait (b : Nat) (s t : State) : RenderWaits s → step s = .next t → WaitsInARow b t → WaitsInARow (b + 1) s
  | other (b : Nat) (s t : State) : (takeTurn s).1 ≠ .controller → step s = .next t → WaitsInARow b t → WaitsInARow b s

/-- Duty of the sink: in no run from `s` does it let the controller wait `b` turns in a row ("a short, bounded interval";
R229 gives no number, so `b` is an argument). `SinkAnswersWithin 1 s` is a sink that always answers at once. -/
def SinkAnswersWithin (b : Nat) (s : State) : Prop := ∀ t, Reached s t → ¬ WaitsInARow b t

/-- The bytes the framer holds: what the source has delivered for this frame, between two flushes. -/
def framed (s : State) : List Byte := (List.range s.cnt.toNat).filterMap s.fb.get

/-- Duty of the byte source: between flushes it delivers bytes of the wire in wire order, `wire m` being byte `m` of the
wire. Bytes may be missing (R237). -/
def WireOrder (wire : Nat → Byte) (s : State) : Prop :=
  ∀ t, Reached s t → ∃ ms : List Nat, ms.Pairwise (· < ·) ∧ framed t = ms.map wire

/-- The two bytes of a sample on the wire, the high byte first (R56). -/
def pairOf (code : BitVec 16) : List Byte := [code.extractLsb' 8 8, code.extractLsb' 0 8]

/-- The wire that carries the samples `code 0, code 1, …`. -/
def wireOf (code : Nat → BitVec 16) (m : Nat) : Byte :=
  if m % 2 = 0 then (code (m / 2)).extractLsb' 8 8 else (code (m / 2)).extractLsb' 0 8

/-- Duty of the stream: it consists of high-byte-first pairs, and what a frame is made of begins with a high byte, so that
the block's pairing by position (R57, R231) is that of the wire. -/
def HighByteFirst (code : Nat → BitVec 16) (s : State) : Prop :=
  ∀ t, Reached s t → ∃ is : List Nat, is.Pairwise (· < ·) ∧ framed t <+: is.flatMap fun i => pairOf (code i)

/-- Duty of the stream: the samples on the wire are values in `[0, 4095]`. -/
def CodesInRange (code : Nat → BitVec 16) : Prop := ∀ i, (code i).toNat ≤ 4095

/-- The pairs of a frame compose codes of a 12-bit converter (R75), as the last two duties make them (Laws/Premises.lean).
The block does not check it (R103). -/
def PairsInRange : List Byte → Prop
  | hi :: lo :: bs => (sampleWord hi lo).toNat ≤ 4095 ∧ PairsInRange bs
  | _ => True

/-! ### Premises on the numerics -/

/-- The value words are binary64 (30_encoding R77, from the spec's general knowledge), a premise the model does not
assume (log entry 1). -/
def ValuesAreBinary64 (num : Numerics Value) : Prop := ∀ v q, binary64 v.enc = some q → num.real v = (q : ℝ)

/-- The window denotes a sinusoid of frequency `f0`, each sample up to `tolerance`. -/
def SinusoidWithin {V : Type} (num : Numerics V) (fs : Nat) (f0 amplitude shift tolerance : ℝ) (s : List V) : Prop :=
  ∀ i (hi : i < s.length),
    |num.real s[i] - amplitude * Real.sin (2 * Real.pi * f0 * i / fs + shift)| ≤ tolerance

/-- NP5 (R9), an accuracy premise on `num` that the model does not assume (log entry 2): for a sinusoidal window whose
frequency maps to a retained speed, some largest entry of the row is at the bin nearest `f0 * N / sample_rate` or next to
it.

DESIGN CHOICE (log entry 26), three points that R9 leaves open.
The windows: neither the phase nor the amplitude nor the smallest window nor how near to 0 or to half the sample rate
`f0` may come is given, and over all of them the property fails even for REF (`N = 4`, `fs = 4`, `f0 = 19/10`, the phase
with `s[1] = sin (1/20)`). So the domain is the argument `domain n fs f0 amplitude shift`, left to the claim that takes
NP5 as a premise. A positive amplitude, `f0 ≥ 0`, an `f0` below the one-sided bins, and "some largest entry" where several
are equal are the model's reading.
"Pure sinusoidal": how far a sample may be from the sinusoid is the argument `tolerance`. With 0 the samples are exact;
half a decoder count, `VREF/8192`, takes in the rounded windows of 95_test_vectors 1.4 and 2.4.
"At the bin nearest, within one bin": read as at most one bin from a nearest bin `m`, not as at most one bin from the
exact position, which is the stronger claim where that position is no integer. -/
def PeakWithinOneBin {V : Type} (num : Numerics V) (domain : Nat → Nat → ℝ → ℝ → ℝ → Prop) (tolerance : ℝ) : Prop :=
  ∀ (n fs maxspeed : Nat) (f0 amplitude shift : ℝ) (s : List V),
    domain n fs f0 amplitude shift → 2 ≤ n → 1 ≤ fs → 0 < amplitude → 0 ≤ f0 → s.length = n →
    SinusoidWithin num fs f0 amplitude shift tolerance s →
    f0 * ((Config.lightSpeed : ℝ) / Config.carrier) ≤ (maxspeed : ℝ) / 65536 →
    f0 * n / fs < (oneSided n : ℝ) →
    ∃ k < retainedCount maxspeed n fs (oneSided n),
      (∃ m : ℤ, |(m : ℝ) - f0 * n / fs| ≤ 1 / 2 ∧ |(k : ℤ) - m| ≤ 1)
        ∧ ∀ j < retainedCount maxspeed n fs (oneSided n),
            num.real (num.transform n s j) ≤ num.real (num.transform n s k)

end Sys2Proof.Machine
end

