-- ==== Sys2Proof/Certificates/Slice0/Obligations.lean ====
section
/-!
DEFINITION. The statements for the provers, one `def Obligations.<Name> : Prop` each. A frame is said by an equation
`t = { s with … }`: every field not named is as it was; a changed array is then given by its reads, index by index.
-/

open Sys2Proof Sys2Proof.Machine

/-! ### Encodings and fetching -/

/-- R70 to R74, R80: the decoders read back what the encoder writes, for every well-formed operation
(the commands spelled as plain writes are not well formed: log entry 14). -/
def Obligations.DecodeEncodeRoundTrip : Prop :=
  ∀ i, WellFormed i → decode (encode i) = .ok i

/-- R71, R80: the host-side decoder reads back the transaction by which the host issues an operation. -/
def Obligations.HostTransactionRoundTrip : Prop :=
  ∀ i p, WellFormed i → hostPattern i = some p → decodeBus p = i

/-- R71, R80: what the host-side decoder makes of every transaction. -/
def Obligations.HostDecoderCases : Prop :=
  ∀ (idx : BitVec 8) (w : Word),
    decodeBus (busPattern 0 idx w) = .rdreg idx
      ∧ (idx ≠ 0 → decodeBus (busPattern 1 idx w) = .wrreg idx w)
      ∧ decodeBus (busPattern 1 0 w) = (if w.toNat = 1 then .run else if w.toNat = 2 then .cancel else .wrreg 0 w)

/-- R74: the complete table of phase codes, 0 to 15. -/
def Obligations.PhaseCodesDecode : Prop :=
  (List.range 16).map (fun c => decodePhase (BitVec.ofNat 4 c))
    = [.error .idlePhase, .ok .poll, .ok .push, .ok .drain, .ok .flush, .ok .decode, .ok .window, .ok .dft, .ok .mag,
       .ok .db, .ok .crop, .ok .update, .ok .render, .ok .yield, .ok .stop, .error .reservedPhase]

/-- 95_test_vectors 2.8 and R73, R74: a few words of the spec, decoded. -/
def Obligations.SpecWordsDecode : Prop :=
  decodeTableWord 80 0x1020000000000010000 = some (.wrreg 0x02 0x10000)
    ∧ decodeTableWord 80 0x10B0000000000010002 = some (.wrreg 0x0B 0x00010002)
    ∧ decodeTableWord 80 0x0010000000000000000 = some (.rdreg 0x01)
    ∧ decodeTableWord 80 0x1000000000000000001 = some .run
    ∧ decodeTableWord 64 0x2 = some .cancel
    ∧ decodeTableWord 64 0x101 = none
    ∧ decodeTableWord 8 0xB = some .update
    ∧ decodeTableWord 8 0xF = none

/-- R187, R80: on the host's turn a step runs the operation its transaction decodes to (the list of
turns is the model's choice, log entry 5). -/
def Obligations.StepRunsHostTransaction : Prop :=
  ∀ (s : State) (p : BitVec 73) (ts : List Turn) (i : Instr), s.env.turns = .bus p :: ts → decodeBus p = i →
    step s = exec i { s with env := { s.env with turns := ts } }

/-- R20, R175, R176: on the controller's turn a step runs, while Running, the operation PHASE decodes to, and does
nothing while Stopped (the list of turns is the model's choice, log entry 5). -/
def Obligations.StepRunsPhaseOperation : Prop :=
  ∀ (s : State) (ts : List Turn), s.env.turns = .controller :: ts →
    (∀ i, s.cs = .running → decodePhase s.phase = .ok i →
        step s = exec i { s with env := { s.env with turns := ts } })
      ∧ (s.cs = .stopped → step s = .next { s with env := { s.env with turns := ts } })

/-- R225, R226, R48: the reset input, in any state, puts the block into its reset state; no event is emitted. The
capacities and the inputs are kept (log entry 19). -/
def Obligations.ResetInputResetsTheBlock : Prop :=
  ∀ (s : State) (ts : List Turn), s.env.turns = .rst :: ts →
    step s = .next { State.reset with caps := s.caps, env := { s.env with turns := ts } }

/-- Log entry 15: a placed opcode-table word runs as the very next step; a command or a transaction in the state it is
placed in, a phase operation with the controller Running at its code. -/
def Obligations.PlacedWordRunsNext : Prop :=
  ∀ (s : State) (nbits w : Nat) (e : Encoded) (i : Instr), tableFormat nbits w = some e → decode e = .ok i →
    step (s.withFetchWord nbits w)
      = (match e with
         | .phase c => exec i { s with cs := .running, phase := c }
         | _ => exec i s)

/-! ### Reset and the invariant -/

/-- R48: what reset leaves, the values the spec gives. -/
def Obligations.ResetValuesOfTheSpec : Prop :=
  State.reset.cs = .stopped ∧ State.reset.phase = 0 ∧ State.reset.cnt = 0 ∧ State.reset.frlen = 0
    ∧ State.reset.n = 0 ∧ State.reset.depth = 0 ∧ State.reset.h = 0 ∧ State.reset.k = 0 ∧ State.reset.yext = 0
    ∧ State.reset.wp = 0 ∧ State.reset.cancelPend = false ∧ State.reset.sinkFail = false
    ∧ State.reset.badcmd = false ∧ State.reset.initDone = false ∧ State.reset.err = 0
    ∧ State.reset.cpi = 0x00008000 ∧ State.reset.loopdur = 0x003C0000 ∧ State.reset.maxspeed = 0x001E0000
    ∧ State.reset.fs = 0x000007D0 ∧ State.reset.wfAddr = 0 ∧ State.reset.axisAddr = 0 ∧ State.reset.hist = []

/-- R49 at reset, with the capacities the model's reset has (the model's choice, log entry 4). -/
def Obligations.ResetHasTheInvariant : Prop := Inv State.reset

/-- R49: every step of every agent keeps the invariant, I1 to I6 among its parts. I3 is read for `N > 0` (the model's
reading, log entry 17). -/
def Obligations.StepKeepsTheInvariant : Prop :=
  ∀ s t : State, Inv s → step s = .next t → Inv t

/-- R26, R48, R79, V6, V12: from a state with the invariant no step stops: no unwritten element is read, no element
beyond a capacity is touched, PHASE 15 is never met. That the model stops there at all is its choice (log entries 9, 10
and 18). -/
def Obligations.LegalStatesNeverStop : Prop :=
  ∀ s : State, Inv s → Safe s

/-- R176: on the controller's turn PHASE moves along an edge of the phase graph, under that edge's condition; only
RENDER may stay where it is without an edge, while the sink has not answered (R235, log entry 7). -/
def Obligations.PhaseFollowsTheGraph : Prop :=
  ∀ (s t : State) (ts : List Turn), Inv s → s.env.turns = .controller :: ts → s.cs = .running → step s = .next t →
    Edge s t.phase ∨ (s.phase = codeRender ∧ sinkAnswer s = .noAnswer ∧ t.phase = codeRender)

/-- R175, R176, R225: no other agent moves PHASE or starts or stops the controller, but for an accepted RUN (IDLE to
POLL) and reset (to IDLE). -/
def Obligations.OnlyRunAndResetMovePhaseFromOutside : Prop :=
  ∀ (s t : State) (u : Turn) (ts : List Turn), Inv s → s.env.turns = u :: ts → u ≠ .controller → step s = .next t →
    (t.phase = s.phase ∧ t.cs = s.cs)
      ∨ ((∃ p, u = .bus p ∧ decodeBus p = .run) ∧ s.cs = .stopped ∧ s.phase = codeIdle ∧ t.cs = .running
          ∧ t.phase = codePoll)
      ∨ (u = .rst ∧ t.phase = codeIdle ∧ t.cs = .stopped)

/-- R61, R13: the history of events only grows, at its end, until reset. -/
def Obligations.HistoryOnlyGrows : Prop :=
  ∀ (s t : State) (u : Turn) (ts : List Turn), s.env.turns = u :: ts → u ≠ .rst → step s = .next t →
    s.hist <+: t.hist

/-! ### Commands -/

/-- R177, R140 to R143, R112, R146, R156: a RUN that is accepted and passes its checks. -/
def Obligations.RunInitialisesTheBlock : Prop :=
  ∀ s : State, s.caps.Ok → s.cs = .stopped → s.cpi.toNat ≠ 0 →
    2 ≤ s.cpi.toNat * s.fs.toNat / 65536 → s.cpi.toNat * s.fs.toNat / 65536 ≤ s.caps.nmax →
    1 ≤ s.loopdur.toNat / s.cpi.toNat → s.loopdur.toNat / s.cpi.toNat ≤ s.caps.depthMax →
    openAnswer s = true →
    ∃ t, exec .run s = .next t
      ∧ t.n.toNat = s.cpi.toNat * s.fs.toNat / 65536
      ∧ t.depth.toNat = s.loopdur.toNat / s.cpi.toNat
      ∧ t.h.toNat = t.n.toNat / 2
      ∧ t.k.toNat = ((List.range t.h.toNat).filter
          (fun k => k * s.fs.toNat * 299000000 * 65536 ≤ s.maxspeed.toNat * t.n.toNat * 2440000000)).length
      ∧ (∀ i, t.win.get i = if i < t.n.toNat then some (Config.num.hann t.n.toNat i) else s.win.get i)
      ∧ (∀ i, t.spd.get i = if i < t.k.toNat then some (Config.num.speed t.n.toNat s.fs.toNat i) else s.spd.get i)
      ∧ (∀ p j, j < 65536 → t.wf.get (wfCell p j)
          = if p < t.depth.toNat ∧ j < t.k.toNat then some Value.zero else s.wf.get (wfCell p j))
      ∧ t = { s with
              n := t.n, depth := t.depth, h := t.h, k := t.k, yext := s.loopdur, win := t.win, spd := t.spd
              wf := t.wf, wp := 0, cnt := 0, frlen := 0, initDone := true, cs := .running, phase := codePoll
              err := 0, sinkFail := false, badcmd := false, cancelPend := false
              hist := s.hist ++ [.openSource], env := afterOpen s.env }

/-- R204, R178, R207: each of the five conditions makes an accepted RUN take ConfigError; the source is not touched and
nothing but the flags changes (that they are cleared on a refused RUN is the model's reading, log entry 22). -/
def Obligations.RunRefusesBadConfigurations : Prop :=
  ∀ s : State, s.cs = .stopped →
    (s.cpi.toNat = 0 ∨ s.cpi.toNat * s.fs.toNat / 65536 < 2 ∨ s.caps.nmax < s.cpi.toNat * s.fs.toNat / 65536
      ∨ s.loopdur.toNat / s.cpi.toNat < 1 ∨ s.caps.depthMax < s.loopdur.toNat / s.cpi.toNat) →
    exec .run s = .next { s with
      err := 4, sinkFail := false, badcmd := false, cancelPend := false, cs := .stopped, phase := codeIdle }

/-- R179, R201, R207: with a good configuration and a source that does not open, an accepted RUN takes
SourceUnavailable; `open()` has been emitted and nothing has been latched (the cleared flags: the model's reading, log entry 22). -/
def Obligations.RunReportsUnavailableSource : Prop :=
  ∀ s : State, s.cs = .stopped → s.cpi.toNat ≠ 0 →
    2 ≤ s.cpi.toNat * s.fs.toNat / 65536 → s.cpi.toNat * s.fs.toNat / 65536 ≤ s.caps.nmax →
    1 ≤ s.loopdur.toNat / s.cpi.toNat → s.loopdur.toNat / s.cpi.toNat ≤ s.caps.depthMax →
    openAnswer s = false →
    exec .run s = .next { s with
      err := 1, sinkFail := false, badcmd := false, cancelPend := false, cs := .stopped, phase := codeIdle
      hist := s.hist ++ [.openSource], env := afterOpen s.env }

/-- R181: RUN while Running changes nothing but BADCMD. -/
def Obligations.RunWhileRunningOnlySetsBadcmd : Prop :=
  ∀ s : State, s.cs = .running → exec .run s = .next { s with badcmd := true }

/-- R182: the command and the pin latch a cancellation while Running, and do nothing while Stopped. -/
def Obligations.CancellationIsLatchedWhileRunning : Prop :=
  ∀ (s : State),
    exec .cancel s = .next (if s.cs = .running then { s with cancelPend := true } else s)
      ∧ ∀ ts, s.env.turns = .cancelReq :: ts →
          step s = exec .cancel { s with env := { s.env with turns := ts } }

/-! ### Framer and decoder -/

/-- R91: POLL sees a pending cancellation before it polls, and then makes no poll; else it takes the source's answer. -/
def Obligations.PollSeesCancellationFirst : Prop :=
  ∀ s : State,
    (s.cancelPend = true → exec .poll s = .next { s with phase := codeStop })
      ∧ (s.cancelPend = false → pollAnswer s = none →
          exec .poll s = .next { s with phase := codePoll, env := afterPoll s.env })
      ∧ (∀ b, s.cancelPend = false → pollAnswer s = some b →
          exec .poll s = .next { s with byte := b, phase := codePush, env := afterPoll s.env })

/-- R92, R41: PUSH stores the byte at FB[CNT], counts it, and is Ready exactly when the count reaches 2*N. -/
def Obligations.PushStoresAndCounts : Prop :=
  ∀ s : State, s.cnt.toNat < 2 * s.n.toNat → s.cnt.toNat < 2 * s.caps.nmax →
    ∃ t, exec .push s = .next t
      ∧ (∀ i, t.fb.get i = if i = s.cnt.toNat then some s.byte else s.fb.get i)
      ∧ t.cnt.toNat = s.cnt.toNat + 1
      ∧ (t.phase = codeDrain ↔ s.cnt.toNat + 1 = 2 * s.n.toNat)
      ∧ (t.phase = codePoll ↔ s.cnt.toNat + 1 ≠ 2 * s.n.toNat)
      ∧ ((statusWord t).getLsbD 5 = true ↔ s.cnt.toNat + 1 = 2 * s.n.toNat)
      ∧ t = { s with fb := t.fb, cnt := t.cnt, phase := t.phase }

/-- R94: a push with `CNT = 2*N` stores nothing, leaves CNT unchanged and answers Ready (the next phase is DRAIN). -/
def Obligations.PushOnFullFramerStoresNothing : Prop :=
  ∀ s : State, s.cnt.toNat = 2 * s.n.toNat → exec .push s = .next { s with phase := codeDrain }

/-- R95: DRAIN hands the 2*N bytes over in order and empties the framer. -/
def Obligations.DrainHandsTheFrameOver : Prop :=
  ∀ s : State, s.n.toNat ≤ s.caps.nmax → s.fb.writtenBelow (2 * s.n.toNat) →
    ∃ t, exec .drain s = .next t
      ∧ (∀ i, t.fr.get i = if i < 2 * s.n.toNat then s.fb.get i else s.fr.get i)
      ∧ t.frlen.toNat = 2 * s.n.toNat
      ∧ t = { s with fr := t.fr, frlen := t.frlen, cnt := 0, phase := codeFlush }

/-- R98: FLUSH emits one event and goes on. -/
def Obligations.FlushEmitsOneEvent : Prop :=
  ∀ s : State, exec .flush s = .next { s with hist := s.hist ++ [.flush], phase := codeDecode }

/-- R100, R101, R75, R104: DECODE of an even frame makes one sample of each pair, high byte first. -/
def Obligations.DecodePairsHighByteFirst : Prop :=
  ∀ s : State, s.frlen.toNat % 2 = 0 → s.frlen.toNat ≤ 2 * s.caps.nmax → s.fr.writtenBelow s.frlen.toNat →
    ∃ t, exec .decode s = .next t
      ∧ (∀ i hi lo, i < s.frlen.toNat / 2 → s.fr.get (2 * i) = some hi → s.fr.get (2 * i + 1) = some lo →
          t.smp.get i = some (Config.num.vdec (BitVec.ofNat 16 (256 * hi.toNat + lo.toNat))))
      ∧ (∀ i, s.frlen.toNat / 2 ≤ i → t.smp.get i = s.smp.get i)
      ∧ t = { s with smp := t.smp, phase := codeWindow }

/-- R102, R202, R207: DECODE of an odd length writes no sample and takes MalformedFrame, with the source released. -/
def Obligations.DecodeTrapsOddLength : Prop :=
  ∀ s : State, s.frlen.toNat % 2 = 1 →
    exec .decode s = .next { s with
      err := 2, hist := s.hist ++ [.release], cancelPend := false, cs := .stopped, phase := codeIdle }

/-- R9 (NP4), R103: where every pair of a frame is a 12-bit code, every voltage lies in [-1.65, 1.65). -/
def Obligations.DecodedVoltagesInRange : Prop :=
  ∀ bs : List Byte, PairsInRange bs → ∀ v ∈ decodeSamples bs,
    -(165 / 100 : ℝ) ≤ Config.num.real v ∧ Config.num.real v < 165 / 100

/-! ### Transform -/

/-- R113: WINDOW multiplies each sample by its coefficient. -/
def Obligations.WindowMultipliesElementwise : Prop :=
  ∀ s : State, s.n.toNat ≤ s.caps.nmax → s.smp.writtenBelow s.n.toNat → s.win.writtenBelow s.n.toNat →
    ∃ t, exec .window s = .next t
      ∧ (∀ i x w, i < s.n.toNat → s.smp.get i = some x → s.win.get i = some w →
          t.xw.get i = some (Config.num.mul x w))
      ∧ (∀ i, s.n.toNat ≤ i → t.xw.get i = s.xw.get i)
      ∧ t = { s with xw := t.xw, phase := codeDft }

/-- R115: DFT stores bin `k` of the transform of XW, for all N bins
(that the unused bins are stored is the model's choice, log entry 20). -/
def Obligations.DftStoresEveryBin : Prop :=
  ∀ (s : State) (xs : List Value), s.n.toNat ≤ s.caps.nmax → xs.length = s.n.toNat →
    (∀ i < s.n.toNat, s.xw.get i = xs[i]?) →
    ∃ t, exec .dft s = .next t
      ∧ (∀ k < s.n.toNat, t.xre.get k = some (Config.num.dft s.n.toNat xs k).1
          ∧ t.xim.get k = some (Config.num.dft s.n.toNat xs k).2)
      ∧ (∀ i, s.n.toNat ≤ i → t.xre.get i = s.xre.get i ∧ t.xim.get i = s.xim.get i)
      ∧ t = { s with xre := t.xre, xim := t.xim, phase := codeMag }

/-- R118, R119: MAG takes the magnitudes of the one-sided bins. -/
def Obligations.MagTakesOneSidedMagnitudes : Prop :=
  ∀ s : State, s.h.toNat ≤ s.caps.nmax / 2 → s.xre.writtenBelow s.h.toNat → s.xim.writtenBelow s.h.toNat →
    ∃ t, exec .mag s = .next t
      ∧ (∀ k re im, k < s.h.toNat → s.xre.get k = some re → s.xim.get k = some im →
          t.mag.get k = some (Config.num.mag re im))
      ∧ (∀ i, s.h.toNat ≤ i → t.mag.get i = s.mag.get i)
      ∧ t = { s with mag := t.mag, phase := codeDb }

/-- R131: DB converts every one-sided magnitude to decibels. -/
def Obligations.DbConvertsEveryMagnitude : Prop :=
  ∀ s : State, s.h.toNat ≤ s.caps.nmax / 2 → s.mag.writtenBelow s.h.toNat →
    ∃ t, exec .db s = .next t
      ∧ (∀ k m, k < s.h.toNat → s.mag.get k = some m → t.dbv.get k = some (Config.num.db m))
      ∧ (∀ i, s.h.toNat ≤ i → t.dbv.get i = s.dbv.get i)
      ∧ t = { s with dbv := t.dbv, phase := codeCrop }

/-- R133, R134: CROP keeps the first K decibel values. -/
def Obligations.CropKeepsTheFirstK : Prop :=
  ∀ s : State, s.k.toNat ≤ s.caps.nmax / 2 → s.dbv.writtenBelow s.k.toNat →
    ∃ t, exec .crop s = .next t
      ∧ (∀ i, t.row.get i = if i < s.k.toNat then s.dbv.get i else s.row.get i)
      ∧ t = { s with row := t.row, phase := codeUpdate }

/-- R135, R110: the five operations WINDOW to CROP compute the transform of the window, entry by entry, and touch
nothing but their working arrays. -/
def Obligations.TransformOfTheWholeWindow : Prop :=
  ∀ (s : State) (xs : List Value), s.n.toNat ≤ s.caps.nmax → s.h.toNat = s.n.toNat / 2 → s.k.toNat ≤ s.h.toNat →
    xs.length = s.n.toNat → (∀ i < s.n.toNat, s.smp.get i = xs[i]?) →
    (∀ i < s.n.toNat, s.win.get i = some (Config.num.hann s.n.toNat i)) →
    ∃ t, execAll [.window, .dft, .mag, .db, .crop] s = .next t
      ∧ (∀ k < s.k.toNat, t.row.get k = some (Config.num.transform s.n.toNat xs k))
      ∧ t = { s with
              xw := t.xw, xre := t.xre, xim := t.xim, mag := t.mag, dbv := t.dbv, row := t.row, phase := codeUpdate }

/-- R9 (NP3), R132: a window whose every sample denotes 0 gives a row whose every entry denotes DB_FLOOR, which is -200
at the `EPS` of R132 (the stated default, log entry 3), so that a floor row is told apart from the zero fill. -/
def Obligations.ZeroWindowGivesFloorRow : Prop :=
  ∀ (s : State) (xs : List Value), s.n.toNat ≤ s.caps.nmax → s.h.toNat = s.n.toNat / 2 → s.k.toNat ≤ s.h.toNat →
    xs.length = s.n.toNat → (∀ i < s.n.toNat, s.smp.get i = xs[i]?) → (∀ x ∈ xs, Config.num.real x = 0) →
    s.win.writtenBelow s.n.toNat →
    ∃ t, execAll [.window, .dft, .mag, .db, .crop] s = .next t
      ∧ ∀ k < s.k.toNat, ∃ v, t.row.get k = some v ∧ Config.num.real v = 20 * Real.logb 10 Config.num.eps
          ∧ Config.num.real v = -200 ∧ v ≠ Value.zero

/-! ### Speed mapper -/

/-- R143: the closed form of the retained-bin count. -/
def Obligations.RetainedCountClosedForm : Prop :=
  ∀ maxspeed n fs h : Nat, 2 ≤ n → 1 ≤ fs →
    retainedCount maxspeed n fs h
      = min h (maxspeed * n * 2440000000 / (fs * 299000000 * 65536) + 1)

/-- R143, R144, R147: the retained bins are the prefix of the one-sided bins whose exact speed is at most
`max_speed`. -/
def Obligations.RetainedBinsAreTheSlowPrefix : Prop :=
  ∀ (maxspeed : BitVec 32) (n fs h k : Nat), 1 ≤ n →
    (k < retainedCount maxspeed.toNat n fs h
      ↔ k < h ∧ ((k : ℚ) * fs / n) * (299000000 / 2440000000) ≤ (maxspeed.toNat : ℚ) / 65536)

/-! ### Waterfall -/

/-- R55: the logical-to-physical row map is a bijection of `[0, DEPTH)`; the oldest row is the one WP names and the
newest the one before it. -/
def Obligations.RowMapIsABijection : Prop :=
  ∀ wp depth : Nat, wp < depth →
    (∀ i < depth, phys wp depth i < depth)
      ∧ (∀ p < depth, ∃ i < depth, phys wp depth i = p ∧ ∀ j < depth, phys wp depth j = p → j = i)
      ∧ phys wp depth (depth - 1) = wp
      ∧ phys wp depth 0 = (wp + depth - 1) % depth

/-- R157, R159, R160, R162: UPDATE makes ROW the newest logical row, ages every other by one and drops the oldest; it
writes physical row WP and no other cell (cells are listed under `wfCell`, log entry 11). -/
def Obligations.UpdateAgesEveryLogicalRow : Prop :=
  ∀ s : State, s.caps.Ok → 1 ≤ s.depth.toNat → s.depth.toNat ≤ s.caps.depthMax → s.wp.toNat < s.depth.toNat →
    s.k.toNat ≤ s.caps.nmax / 2 → s.row.writtenBelow s.k.toNat →
    ∃ t, exec .update s = .next t
      ∧ logicalRow t 0 = spectrumRow s
      ∧ (∀ i, 1 ≤ i → i < s.depth.toNat → logicalRow t i = logicalRow s (i - 1))
      ∧ (∀ p j, j < 65536 → ¬ (p = s.wp.toNat ∧ j < s.k.toNat) → t.wf.get (wfCell p j) = s.wf.get (wfCell p j))
      ∧ t.wp.toNat = (s.wp.toNat + 1) % s.depth.toNat
      ∧ t = { s with wf := t.wf, wp := t.wp, phase := codeRender }

/-- R168: after any number of updates since WFINIT the buffer holds the last DEPTH rows, newest first, above zero
rows, and `WP = u mod DEPTH`. -/
def Obligations.WaterfallIsAFifo : Prop :=
  ∀ (s : State) (rows : List (List Value)), s.caps.Ok → 1 ≤ s.depth.toNat → s.depth.toNat ≤ s.caps.depthMax →
    s.k.toNat ≤ s.caps.nmax / 2 → s.wp = 0 → (∀ i < s.depth.toNat, logicalRow s i = zeroRow s) →
    (∀ r ∈ rows, r.length = s.k.toNat) →
    ∃ t, updateWith rows s = .next t
      ∧ t.wp.toNat = rows.length % s.depth.toNat
      ∧ (∀ i r, i < s.depth.toNat → i < rows.length → rows[rows.length - 1 - i]? = some r →
          logicalRow t i = r.map some)
      ∧ (∀ i < s.depth.toNat, rows.length ≤ i → logicalRow t i = zeroRow s)

/-- R163, R164, R208: RENDER with an answering sink emits one snapshot in logical order with the axes, sets SINK_FAIL
on `fail`, and goes on to YIELD. Where it has been waiting for the answer (`renderOpen`, the model's bit, log entry 7) the
transaction has been emitted already and no second one is. -/
def Obligations.RenderEmitsTheSnapshot : Prop :=
  ∀ s : State, 1 ≤ s.depth.toNat → s.depth.toNat ≤ s.caps.depthMax → s.k.toNat ≤ s.caps.nmax / 2 →
    WaterfallWritten s → s.spd.writtenBelow s.k.toNat → sinkAnswer s ≠ .noAnswer →
    ∃ matrix axis, exec .render s = .next { s with
        hist := if s.renderOpen = true then s.hist
          else s.hist ++ [.render matrix axis (Value.zero, Config.num.ofparam ((s.yext.toNat : ℚ) / 65536))]
        sinkFail := s.sinkFail || sinkAnswer s == .fail
        renderOpen := false
        phase := codeYield
        env := afterSink s.env }
      ∧ matrix.map (fun r => r.map some) = (List.range s.depth.toNat).map (logicalRow s)
      ∧ axis.map some = (List.range s.k.toNat).map s.spd.get

/-- R163 corner case 4, R235 (the wait is the model's reading, log entry 7): without an answer RENDER stays at RENDER,
CANCEL_PEND not looked at, and emits its transaction, the snapshot with the axes, once, however long it waits. -/
def Obligations.RenderWaitsForTheSink : Prop :=
  ∀ s : State, 1 ≤ s.depth.toNat → s.depth.toNat ≤ s.caps.depthMax → s.k.toNat ≤ s.caps.nmax / 2 →
    WaterfallWritten s → s.spd.writtenBelow s.k.toNat → sinkAnswer s = .noAnswer →
    ∃ matrix axis, exec .render s = .next { s with
        hist := if s.renderOpen = true then s.hist
          else s.hist ++ [.render matrix axis (Value.zero, Config.num.ofparam ((s.yext.toNat : ℚ) / 65536))]
        renderOpen := true
        phase := codeRender
        env := afterSink s.env }
      ∧ matrix.map (fun r => r.map some) = (List.range s.depth.toNat).map (logicalRow s)
      ∧ axis.map some = (List.range s.k.toNat).map s.spd.get

/-- R78: the words of a render transaction, `4 + K + DEPTH*K` of them, in order. -/
def Obligations.RenderWordsInOrder : Prop :=
  ∀ (matrix : List (List Value)) (axis : List Value) (ext : Value × Value) (k : Nat),
    axis.length = k → (∀ r ∈ matrix, r.length = k) →
    (renderWords matrix axis ext).length = 4 + k + matrix.length * k
      ∧ (renderWords matrix axis ext)[0]? = some (BitVec.ofNat 64 matrix.length)
      ∧ (renderWords matrix axis ext)[1]? = some (BitVec.ofNat 64 k)
      ∧ (∀ j < k, (renderWords matrix axis ext)[2 + j]? = axis[j]?.map Value.enc)
      ∧ (renderWords matrix axis ext)[2 + k]? = some ext.1.enc
      ∧ (renderWords matrix axis ext)[3 + k]? = some ext.2.enc
      ∧ (∀ i r j, matrix[i]? = some r → j < k →
          (renderWords matrix axis ext)[4 + k + i * k + j]? = r[j]?.map Value.enc)

/-! ### Controller -/

/-- R184: YIELD is the second observation point of a cancellation. -/
def Obligations.YieldSeesCancellation : Prop :=
  ∀ s : State, exec .yield s = .next { s with phase := if s.cancelPend = true then codeStop else codePoll }

/-- R190: STOP emits `release()`, clears CANCEL_PEND, stops, and keeps everything else. -/
def Obligations.StopReleasesTheSource : Prop :=
  ∀ s : State, exec .stop s = .next { s with
    hist := s.hist ++ [.release], cancelPend := false, cs := .stopped, phase := codeIdle }

/-- R183: CANCEL_PEND is read by POLL and YIELD only: every other phase operation but STOP does the same whatever the
latch holds, and leaves the latch alone. -/
def Obligations.CancellationIsInvisibleElsewhere : Prop :=
  ∀ (s t : State) (b : Bool) (i : Instr),
    i ∈ [Instr.push, .drain, .flush, .window, .dft, .mag, .db, .crop, .update, .render]
      ∨ (i = .decode ∧ s.frlen.toNat % 2 = 0) →
    exec i s = .next t → exec i { s with cancelPend := b } = .next { t with cancelPend := b }

/-- R188: no byte, sample, spectrum or sink answer moves the controller: two legal states that agree on the controller's
position and wait, the count, the size, the cancellation latch and on what the inputs select (`SameCourse`: a byte
against none, an answer of the sink against none) go the same way and agree again, whatever bytes the source delivered,
whether the sink answered `ok` or `fail`, and whatever the arrays hold. -/
def Obligations.DataNeverMovesTheController : Prop :=
  ∀ (s s' t t' : State) (ts : List Turn), Inv s → Inv s' → s.env.turns = .controller :: ts → SameCourse s s' →
    step s = .next t → step s' = .next t' → SameCourse t t'

/-- R93, R57, R92: from an empty framer at POLL, 2*N delivered bytes are framed in arrival order by 2*N POLL and PUSH
pairs, and no push before the last is Ready. -/
def Obligations.FramerAssemblesOneFrame : Prop :=
  ∀ (s : State) (bytes : List Byte) (ts : List Turn) (ps : List (Option Byte)), Inv s → s.cs = .running →
    s.phase = codePoll → s.cnt = 0 → s.cancelPend = false → bytes.length = 2 * s.n.toNat →
    s.env.turns = List.replicate (4 * s.n.toNat) .controller ++ ts → s.env.polls = bytes.map some ++ ps →
    ∃ t, Sys2Proof.core.run (4 * s.n.toNat) s = .next t ∧ t.phase = codeDrain
      ∧ t.cnt.toNat = 2 * s.n.toNat ∧ (∀ i < 2 * s.n.toNat, t.fb.get i = bytes[i]?)
      ∧ t.wf = s.wf ∧ t.wp = s.wp ∧ t.hist = s.hist ∧ t.env.turns = ts ∧ t.env.polls = ps

/-- R176, R183, R61, R168: a drained frame is always processed to its end: eleven controller turns from DRAIN make the
transform of the frame the newest logical row, age the others, emit flush and render in that order, and only then look
at the cancellation latch. -/
def Obligations.FrameSequenceRunsToItsEnd : Prop :=
  ∀ (s : State) (frame : List Byte) (ts : List Turn) (a : SinkAnswer) (as : List SinkAnswer), Inv s →
    s.cs = .running → s.phase = codeDrain → frame.length = 2 * s.n.toNat →
    (∀ i < 2 * s.n.toNat, s.fb.get i = frame[i]?) →
    s.env.turns = List.replicate 11 .controller ++ ts → s.env.sinks = a :: as → a ≠ .noAnswer →
    ∃ t matrix axis ext, Sys2Proof.core.run 11 s = .next t
      ∧ t.phase = (if s.cancelPend = true then codeStop else codePoll)
      ∧ logicalRow t 0
          = (List.range s.k.toNat).map (fun k => some (Config.num.transform s.n.toNat (decodeSamples frame) k))
      ∧ (∀ i, 1 ≤ i → i < s.depth.toNat → logicalRow t i = logicalRow s (i - 1))
      ∧ t.hist = s.hist ++ [.flush, .render matrix axis ext]
      ∧ matrix.map (fun r => r.map some) = (List.range s.depth.toNat).map (logicalRow t)
      ∧ t.sinkFail = (s.sinkFail || a == .fail) ∧ t.cnt = 0 ∧ t.cancelPend = s.cancelPend

/-- R150, R64, R161: the latched configuration and its tables change only by an accepted RUN or reset; the waterfall
and its pointer change only by those and by UPDATE. -/
def Obligations.LatchedConfigurationIsFixed : Prop :=
  ∀ (s t : State) (u : Turn) (ts : List Turn), Inv s → s.env.turns = u :: ts → u ≠ .rst →
    ¬ (s.cs = .stopped ∧ t.cs = .running) → step s = .next t →
    t.n = s.n ∧ t.depth = s.depth ∧ t.h = s.h ∧ t.k = s.k ∧ t.yext = s.yext ∧ t.win = s.win ∧ t.spd = s.spd
      ∧ (¬ (u = .controller ∧ s.phase = codeUpdate) → t.wf = s.wf ∧ t.wp = s.wp)

/-- R64, R43, R45: nothing but a register write changes the parameter and address registers. -/
def Obligations.OnlyWritesChangeParameters : Prop :=
  ∀ (s t : State) (i : Instr), (∀ idx w, i ≠ .wrreg idx w) → exec i s = .next t →
    t.cpi = s.cpi ∧ t.loopdur = s.loopdur ∧ t.maxspeed = s.maxspeed ∧ t.fs = s.fs ∧ t.wfAddr = s.wfAddr
      ∧ t.axisAddr = s.axisAddr

/-! ### Control port -/

/-- R185, R28 to R39, R43, R45: a read of each register but the two windows answers its value, zero-extended, and
changes nothing. That answers are kept in a list is the model's choice (log entry 16). -/
def Obligations.ReadsAnswerTheRegisters : Prop :=
  ∀ s : State,
    exec (.rdreg 0x00) s = .next { s with answers := s.answers ++ [0] }
      ∧ exec (.rdreg 0x01) s = .next { s with answers := s.answers ++ [statusWord s] }
      ∧ exec (.rdreg 0x02) s = .next { s with answers := s.answers ++ [BitVec.ofNat 64 s.cpi.toNat] }
      ∧ exec (.rdreg 0x03) s = .next { s with answers := s.answers ++ [BitVec.ofNat 64 s.loopdur.toNat] }
      ∧ exec (.rdreg 0x04) s = .next { s with answers := s.answers ++ [BitVec.ofNat 64 s.maxspeed.toNat] }
      ∧ exec (.rdreg 0x05) s = .next { s with answers := s.answers ++ [BitVec.ofNat 64 s.fs.toNat] }
      ∧ exec (.rdreg 0x06) s = .next { s with answers := s.answers ++ [BitVec.ofNat 64 s.n.toNat] }
      ∧ exec (.rdreg 0x07) s = .next { s with answers := s.answers ++ [BitVec.ofNat 64 s.depth.toNat] }
      ∧ exec (.rdreg 0x08) s = .next { s with answers := s.answers ++ [BitVec.ofNat 64 s.k.toNat] }
      ∧ exec (.rdreg 0x09) s = .next { s with answers := s.answers ++ [BitVec.ofNat 64 s.wp.toNat] }
      ∧ exec (.rdreg 0x0A) s = .next { s with answers := s.answers ++ [BitVec.ofNat 64 s.cnt.toNat] }
      ∧ exec (.rdreg 0x0B) s = .next { s with answers := s.answers ++ [BitVec.ofNat 64 s.wfAddr.toNat] }
      ∧ exec (.rdreg 0x0D) s = .next { s with answers := s.answers ++ [BitVec.ofNat 64 s.axisAddr.toNat] }

/-- R30, R41 (with the sum of 95_test_vectors 2.7): the fields of the STATUS word. -/
def Obligations.StatusWordFields : Prop :=
  ∀ s : State,
    (statusWord s).toNat
      = (if s.cs = .running then 1 else 0) + 2 * s.phase.toNat
        + (if 0 < s.n.toNat ∧ s.cnt.toNat = 2 * s.n.toNat then 0x20 else 0)
        + (if s.cancelPend = true then 0x40 else 0) + (if s.sinkFail = true then 0x80 else 0)
        + (if s.badcmd = true then 0x100 else 0) + (if s.initDone = true then 0x200 else 0)
        + 0x1000 * s.err.toNat

/-- R44, R55: WF_DATA reads the logical entry WF_ADDR names, and 0 out of range. -/
def Obligations.WaterfallWindowReads : Prop :=
  ∀ (s : State) (r c : Nat), s.wfAddr.toNat = 65536 * r + c → c < 65536 →
    (¬ (r < s.depth.toNat ∧ c < s.k.toNat) →
        exec (.rdreg 0x0C) s = .next { s with answers := s.answers ++ [0] })
      ∧ (∀ v, r < s.depth.toNat → c < s.k.toNat → s.depth.toNat ≤ s.caps.depthMax → s.k.toNat ≤ s.caps.nmax / 2 →
          (logicalRow s r)[c]? = some (some v) →
          exec (.rdreg 0x0C) s = .next { s with answers := s.answers ++ [v.enc] })

/-- R46: AXIS_DATA reads the axis entry AXIS_ADDR names, and 0 out of range. -/
def Obligations.AxisWindowReads : Prop :=
  ∀ s : State,
    (s.k.toNat ≤ s.axisAddr.toNat → exec (.rdreg 0x0E) s = .next { s with answers := s.answers ++ [0] })
      ∧ (∀ v, s.axisAddr.toNat < s.k.toNat → s.k.toNat ≤ s.caps.nmax / 2 → s.spd.get s.axisAddr.toNat = some v →
          exec (.rdreg 0x0E) s = .next { s with answers := s.answers ++ [v.enc] })

/-- R186, R31 to R34, R43, R45: a write stores the implemented field of its register, drops the bits above it, and
changes nothing else. -/
def Obligations.WritesStoreTheImplementedField : Prop :=
  ∀ (s : State) (w : Word),
    exec (.wrreg 0x02 w) s = .next { s with cpi := BitVec.ofNat 32 w.toNat }
      ∧ exec (.wrreg 0x03 w) s = .next { s with loopdur := BitVec.ofNat 32 w.toNat }
      ∧ exec (.wrreg 0x04 w) s = .next { s with maxspeed := BitVec.ofNat 32 w.toNat }
      ∧ exec (.wrreg 0x05 w) s = .next { s with fs := BitVec.ofNat 32 w.toNat }
      ∧ exec (.wrreg 0x0B w) s = .next { s with wfAddr := BitVec.ofNat 32 w.toNat }
      ∧ exec (.wrreg 0x0D w) s = .next { s with axisAddr := BitVec.ofNat 16 w.toNat }

/-- R186, R28: a write to a read-only register is ignored. -/
def Obligations.WritesToReadOnlyRegistersAreIgnored : Prop :=
  ∀ (s : State) (idx : BitVec 8) (w : Word),
    idx ∈ [0x01, 0x06, 0x07, 0x08, 0x09, 0x0A, 0x0C, 0x0E] → exec (.wrreg idx w) s = .next s

/-- R47: a reserved index reads 0 and ignores a write; no flag is set. -/
def Obligations.ReservedIndicesAreInert : Prop :=
  ∀ (s : State) (idx : BitVec 8) (w : Word), 0x0F ≤ idx.toNat →
    exec (.rdreg idx) s = .next { s with answers := s.answers ++ [0] } ∧ exec (.wrreg idx w) s = .next s

/-- R186, R79, R205, R209: a word written to CMD is RUN, CANCEL, or BadCommand and nothing else. -/
def Obligations.CommandWordsCommand : Prop :=
  ∀ (s : State) (w : Word),
    (w.toNat = 1 → exec (.wrreg 0x00 w) s = exec .run s)
      ∧ (w.toNat = 2 → exec (.wrreg 0x00 w) s = exec .cancel s)
      ∧ (w.toNat ≠ 1 → w.toNat ≠ 2 → exec (.wrreg 0x00 w) s = .next { s with badcmd := true })
end

