-- ==== Sys2Proof/Laws/State.lean ====
section
/-!
SUPPORT. What each named update of the state does to each field, true by definition. The provers cite these instead of
unfolding an update.
-/

namespace Sys2Proof.Machine

/-! ### State.withEnv -/

@[simp] theorem State.withEnv_caps (s : State) (e : Env) : (s.withEnv e).caps = s.caps := rfl
@[simp] theorem State.withEnv_env (s : State) (e : Env) : (s.withEnv e).env = e := rfl
@[simp] theorem State.withEnv_cs (s : State) (e : Env) : (s.withEnv e).cs = s.cs := rfl
@[simp] theorem State.withEnv_phase (s : State) (e : Env) : (s.withEnv e).phase = s.phase := rfl
@[simp] theorem State.withEnv_byte (s : State) (e : Env) : (s.withEnv e).byte = s.byte := rfl
@[simp] theorem State.withEnv_fb (s : State) (e : Env) : (s.withEnv e).fb = s.fb := rfl
@[simp] theorem State.withEnv_cnt (s : State) (e : Env) : (s.withEnv e).cnt = s.cnt := rfl
@[simp] theorem State.withEnv_fr (s : State) (e : Env) : (s.withEnv e).fr = s.fr := rfl
@[simp] theorem State.withEnv_frlen (s : State) (e : Env) : (s.withEnv e).frlen = s.frlen := rfl
@[simp] theorem State.withEnv_smp (s : State) (e : Env) : (s.withEnv e).smp = s.smp := rfl
@[simp] theorem State.withEnv_xw (s : State) (e : Env) : (s.withEnv e).xw = s.xw := rfl
@[simp] theorem State.withEnv_xre (s : State) (e : Env) : (s.withEnv e).xre = s.xre := rfl
@[simp] theorem State.withEnv_xim (s : State) (e : Env) : (s.withEnv e).xim = s.xim := rfl
@[simp] theorem State.withEnv_mag (s : State) (e : Env) : (s.withEnv e).mag = s.mag := rfl
@[simp] theorem State.withEnv_dbv (s : State) (e : Env) : (s.withEnv e).dbv = s.dbv := rfl
@[simp] theorem State.withEnv_row (s : State) (e : Env) : (s.withEnv e).row = s.row := rfl
@[simp] theorem State.withEnv_n (s : State) (e : Env) : (s.withEnv e).n = s.n := rfl
@[simp] theorem State.withEnv_depth (s : State) (e : Env) : (s.withEnv e).depth = s.depth := rfl
@[simp] theorem State.withEnv_h (s : State) (e : Env) : (s.withEnv e).h = s.h := rfl
@[simp] theorem State.withEnv_k (s : State) (e : Env) : (s.withEnv e).k = s.k := rfl
@[simp] theorem State.withEnv_yext (s : State) (e : Env) : (s.withEnv e).yext = s.yext := rfl
@[simp] theorem State.withEnv_win (s : State) (e : Env) : (s.withEnv e).win = s.win := rfl
@[simp] theorem State.withEnv_spd (s : State) (e : Env) : (s.withEnv e).spd = s.spd := rfl
@[simp] theorem State.withEnv_wf (s : State) (e : Env) : (s.withEnv e).wf = s.wf := rfl
@[simp] theorem State.withEnv_wp (s : State) (e : Env) : (s.withEnv e).wp = s.wp := rfl
@[simp] theorem State.withEnv_cancelPend (s : State) (e : Env) : (s.withEnv e).cancelPend = s.cancelPend := rfl
@[simp] theorem State.withEnv_sinkFail (s : State) (e : Env) : (s.withEnv e).sinkFail = s.sinkFail := rfl
@[simp] theorem State.withEnv_badcmd (s : State) (e : Env) : (s.withEnv e).badcmd = s.badcmd := rfl
@[simp] theorem State.withEnv_initDone (s : State) (e : Env) : (s.withEnv e).initDone = s.initDone := rfl
@[simp] theorem State.withEnv_err (s : State) (e : Env) : (s.withEnv e).err = s.err := rfl
@[simp] theorem State.withEnv_cpi (s : State) (e : Env) : (s.withEnv e).cpi = s.cpi := rfl
@[simp] theorem State.withEnv_loopdur (s : State) (e : Env) : (s.withEnv e).loopdur = s.loopdur := rfl
@[simp] theorem State.withEnv_maxspeed (s : State) (e : Env) : (s.withEnv e).maxspeed = s.maxspeed := rfl
@[simp] theorem State.withEnv_fs (s : State) (e : Env) : (s.withEnv e).fs = s.fs := rfl
@[simp] theorem State.withEnv_wfAddr (s : State) (e : Env) : (s.withEnv e).wfAddr = s.wfAddr := rfl
@[simp] theorem State.withEnv_axisAddr (s : State) (e : Env) : (s.withEnv e).axisAddr = s.axisAddr := rfl
@[simp] theorem State.withEnv_renderOpen (s : State) (e : Env) : (s.withEnv e).renderOpen = s.renderOpen := rfl
@[simp] theorem State.withEnv_hist (s : State) (e : Env) : (s.withEnv e).hist = s.hist := rfl
@[simp] theorem State.withEnv_answers (s : State) (e : Env) : (s.withEnv e).answers = s.answers := rfl

/-! ### State.goto -/

@[simp] theorem State.goto_caps (s : State) (p : BitVec 4) : (s.goto p).caps = s.caps := rfl
@[simp] theorem State.goto_env (s : State) (p : BitVec 4) : (s.goto p).env = s.env := rfl
@[simp] theorem State.goto_cs (s : State) (p : BitVec 4) : (s.goto p).cs = s.cs := rfl
@[simp] theorem State.goto_phase (s : State) (p : BitVec 4) : (s.goto p).phase = p := rfl
@[simp] theorem State.goto_byte (s : State) (p : BitVec 4) : (s.goto p).byte = s.byte := rfl
@[simp] theorem State.goto_fb (s : State) (p : BitVec 4) : (s.goto p).fb = s.fb := rfl
@[simp] theorem State.goto_cnt (s : State) (p : BitVec 4) : (s.goto p).cnt = s.cnt := rfl
@[simp] theorem State.goto_fr (s : State) (p : BitVec 4) : (s.goto p).fr = s.fr := rfl
@[simp] theorem State.goto_frlen (s : State) (p : BitVec 4) : (s.goto p).frlen = s.frlen := rfl
@[simp] theorem State.goto_smp (s : State) (p : BitVec 4) : (s.goto p).smp = s.smp := rfl
@[simp] theorem State.goto_xw (s : State) (p : BitVec 4) : (s.goto p).xw = s.xw := rfl
@[simp] theorem State.goto_xre (s : State) (p : BitVec 4) : (s.goto p).xre = s.xre := rfl
@[simp] theorem State.goto_xim (s : State) (p : BitVec 4) : (s.goto p).xim = s.xim := rfl
@[simp] theorem State.goto_mag (s : State) (p : BitVec 4) : (s.goto p).mag = s.mag := rfl
@[simp] theorem State.goto_dbv (s : State) (p : BitVec 4) : (s.goto p).dbv = s.dbv := rfl
@[simp] theorem State.goto_row (s : State) (p : BitVec 4) : (s.goto p).row = s.row := rfl
@[simp] theorem State.goto_n (s : State) (p : BitVec 4) : (s.goto p).n = s.n := rfl
@[simp] theorem State.goto_depth (s : State) (p : BitVec 4) : (s.goto p).depth = s.depth := rfl
@[simp] theorem State.goto_h (s : State) (p : BitVec 4) : (s.goto p).h = s.h := rfl
@[simp] theorem State.goto_k (s : State) (p : BitVec 4) : (s.goto p).k = s.k := rfl
@[simp] theorem State.goto_yext (s : State) (p : BitVec 4) : (s.goto p).yext = s.yext := rfl
@[simp] theorem State.goto_win (s : State) (p : BitVec 4) : (s.goto p).win = s.win := rfl
@[simp] theorem State.goto_spd (s : State) (p : BitVec 4) : (s.goto p).spd = s.spd := rfl
@[simp] theorem State.goto_wf (s : State) (p : BitVec 4) : (s.goto p).wf = s.wf := rfl
@[simp] theorem State.goto_wp (s : State) (p : BitVec 4) : (s.goto p).wp = s.wp := rfl
@[simp] theorem State.goto_cancelPend (s : State) (p : BitVec 4) : (s.goto p).cancelPend = s.cancelPend := rfl
@[simp] theorem State.goto_sinkFail (s : State) (p : BitVec 4) : (s.goto p).sinkFail = s.sinkFail := rfl
@[simp] theorem State.goto_badcmd (s : State) (p : BitVec 4) : (s.goto p).badcmd = s.badcmd := rfl
@[simp] theorem State.goto_initDone (s : State) (p : BitVec 4) : (s.goto p).initDone = s.initDone := rfl
@[simp] theorem State.goto_err (s : State) (p : BitVec 4) : (s.goto p).err = s.err := rfl
@[simp] theorem State.goto_cpi (s : State) (p : BitVec 4) : (s.goto p).cpi = s.cpi := rfl
@[simp] theorem State.goto_loopdur (s : State) (p : BitVec 4) : (s.goto p).loopdur = s.loopdur := rfl
@[simp] theorem State.goto_maxspeed (s : State) (p : BitVec 4) : (s.goto p).maxspeed = s.maxspeed := rfl
@[simp] theorem State.goto_fs (s : State) (p : BitVec 4) : (s.goto p).fs = s.fs := rfl
@[simp] theorem State.goto_wfAddr (s : State) (p : BitVec 4) : (s.goto p).wfAddr = s.wfAddr := rfl
@[simp] theorem State.goto_axisAddr (s : State) (p : BitVec 4) : (s.goto p).axisAddr = s.axisAddr := rfl
@[simp] theorem State.goto_renderOpen (s : State) (p : BitVec 4) : (s.goto p).renderOpen = s.renderOpen := rfl
@[simp] theorem State.goto_hist (s : State) (p : BitVec 4) : (s.goto p).hist = s.hist := rfl
@[simp] theorem State.goto_answers (s : State) (p : BitVec 4) : (s.goto p).answers = s.answers := rfl

/-! ### State.emit -/

@[simp] theorem State.emit_caps (s : State) (e : Event) : (s.emit e).caps = s.caps := rfl
@[simp] theorem State.emit_env (s : State) (e : Event) : (s.emit e).env = s.env := rfl
@[simp] theorem State.emit_cs (s : State) (e : Event) : (s.emit e).cs = s.cs := rfl
@[simp] theorem State.emit_phase (s : State) (e : Event) : (s.emit e).phase = s.phase := rfl
@[simp] theorem State.emit_byte (s : State) (e : Event) : (s.emit e).byte = s.byte := rfl
@[simp] theorem State.emit_fb (s : State) (e : Event) : (s.emit e).fb = s.fb := rfl
@[simp] theorem State.emit_cnt (s : State) (e : Event) : (s.emit e).cnt = s.cnt := rfl
@[simp] theorem State.emit_fr (s : State) (e : Event) : (s.emit e).fr = s.fr := rfl
@[simp] theorem State.emit_frlen (s : State) (e : Event) : (s.emit e).frlen = s.frlen := rfl
@[simp] theorem State.emit_smp (s : State) (e : Event) : (s.emit e).smp = s.smp := rfl
@[simp] theorem State.emit_xw (s : State) (e : Event) : (s.emit e).xw = s.xw := rfl
@[simp] theorem State.emit_xre (s : State) (e : Event) : (s.emit e).xre = s.xre := rfl
@[simp] theorem State.emit_xim (s : State) (e : Event) : (s.emit e).xim = s.xim := rfl
@[simp] theorem State.emit_mag (s : State) (e : Event) : (s.emit e).mag = s.mag := rfl
@[simp] theorem State.emit_dbv (s : State) (e : Event) : (s.emit e).dbv = s.dbv := rfl
@[simp] theorem State.emit_row (s : State) (e : Event) : (s.emit e).row = s.row := rfl
@[simp] theorem State.emit_n (s : State) (e : Event) : (s.emit e).n = s.n := rfl
@[simp] theorem State.emit_depth (s : State) (e : Event) : (s.emit e).depth = s.depth := rfl
@[simp] theorem State.emit_h (s : State) (e : Event) : (s.emit e).h = s.h := rfl
@[simp] theorem State.emit_k (s : State) (e : Event) : (s.emit e).k = s.k := rfl
@[simp] theorem State.emit_yext (s : State) (e : Event) : (s.emit e).yext = s.yext := rfl
@[simp] theorem State.emit_win (s : State) (e : Event) : (s.emit e).win = s.win := rfl
@[simp] theorem State.emit_spd (s : State) (e : Event) : (s.emit e).spd = s.spd := rfl
@[simp] theorem State.emit_wf (s : State) (e : Event) : (s.emit e).wf = s.wf := rfl
@[simp] theorem State.emit_wp (s : State) (e : Event) : (s.emit e).wp = s.wp := rfl
@[simp] theorem State.emit_cancelPend (s : State) (e : Event) : (s.emit e).cancelPend = s.cancelPend := rfl
@[simp] theorem State.emit_sinkFail (s : State) (e : Event) : (s.emit e).sinkFail = s.sinkFail := rfl
@[simp] theorem State.emit_badcmd (s : State) (e : Event) : (s.emit e).badcmd = s.badcmd := rfl
@[simp] theorem State.emit_initDone (s : State) (e : Event) : (s.emit e).initDone = s.initDone := rfl
@[simp] theorem State.emit_err (s : State) (e : Event) : (s.emit e).err = s.err := rfl
@[simp] theorem State.emit_cpi (s : State) (e : Event) : (s.emit e).cpi = s.cpi := rfl
@[simp] theorem State.emit_loopdur (s : State) (e : Event) : (s.emit e).loopdur = s.loopdur := rfl
@[simp] theorem State.emit_maxspeed (s : State) (e : Event) : (s.emit e).maxspeed = s.maxspeed := rfl
@[simp] theorem State.emit_fs (s : State) (e : Event) : (s.emit e).fs = s.fs := rfl
@[simp] theorem State.emit_wfAddr (s : State) (e : Event) : (s.emit e).wfAddr = s.wfAddr := rfl
@[simp] theorem State.emit_axisAddr (s : State) (e : Event) : (s.emit e).axisAddr = s.axisAddr := rfl
@[simp] theorem State.emit_renderOpen (s : State) (e : Event) : (s.emit e).renderOpen = s.renderOpen := rfl
@[simp] theorem State.emit_hist (s : State) (e : Event) : (s.emit e).hist = s.hist ++ [e] := rfl
@[simp] theorem State.emit_answers (s : State) (e : Event) : (s.emit e).answers = s.answers := rfl

/-! ### State.answer -/

@[simp] theorem State.answer_caps (s : State) (w : Word) : (s.answer w).caps = s.caps := rfl
@[simp] theorem State.answer_env (s : State) (w : Word) : (s.answer w).env = s.env := rfl
@[simp] theorem State.answer_cs (s : State) (w : Word) : (s.answer w).cs = s.cs := rfl
@[simp] theorem State.answer_phase (s : State) (w : Word) : (s.answer w).phase = s.phase := rfl
@[simp] theorem State.answer_byte (s : State) (w : Word) : (s.answer w).byte = s.byte := rfl
@[simp] theorem State.answer_fb (s : State) (w : Word) : (s.answer w).fb = s.fb := rfl
@[simp] theorem State.answer_cnt (s : State) (w : Word) : (s.answer w).cnt = s.cnt := rfl
@[simp] theorem State.answer_fr (s : State) (w : Word) : (s.answer w).fr = s.fr := rfl
@[simp] theorem State.answer_frlen (s : State) (w : Word) : (s.answer w).frlen = s.frlen := rfl
@[simp] theorem State.answer_smp (s : State) (w : Word) : (s.answer w).smp = s.smp := rfl
@[simp] theorem State.answer_xw (s : State) (w : Word) : (s.answer w).xw = s.xw := rfl
@[simp] theorem State.answer_xre (s : State) (w : Word) : (s.answer w).xre = s.xre := rfl
@[simp] theorem State.answer_xim (s : State) (w : Word) : (s.answer w).xim = s.xim := rfl
@[simp] theorem State.answer_mag (s : State) (w : Word) : (s.answer w).mag = s.mag := rfl
@[simp] theorem State.answer_dbv (s : State) (w : Word) : (s.answer w).dbv = s.dbv := rfl
@[simp] theorem State.answer_row (s : State) (w : Word) : (s.answer w).row = s.row := rfl
@[simp] theorem State.answer_n (s : State) (w : Word) : (s.answer w).n = s.n := rfl
@[simp] theorem State.answer_depth (s : State) (w : Word) : (s.answer w).depth = s.depth := rfl
@[simp] theorem State.answer_h (s : State) (w : Word) : (s.answer w).h = s.h := rfl
@[simp] theorem State.answer_k (s : State) (w : Word) : (s.answer w).k = s.k := rfl
@[simp] theorem State.answer_yext (s : State) (w : Word) : (s.answer w).yext = s.yext := rfl
@[simp] theorem State.answer_win (s : State) (w : Word) : (s.answer w).win = s.win := rfl
@[simp] theorem State.answer_spd (s : State) (w : Word) : (s.answer w).spd = s.spd := rfl
@[simp] theorem State.answer_wf (s : State) (w : Word) : (s.answer w).wf = s.wf := rfl
@[simp] theorem State.answer_wp (s : State) (w : Word) : (s.answer w).wp = s.wp := rfl
@[simp] theorem State.answer_cancelPend (s : State) (w : Word) : (s.answer w).cancelPend = s.cancelPend := rfl
@[simp] theorem State.answer_sinkFail (s : State) (w : Word) : (s.answer w).sinkFail = s.sinkFail := rfl
@[simp] theorem State.answer_badcmd (s : State) (w : Word) : (s.answer w).badcmd = s.badcmd := rfl
@[simp] theorem State.answer_initDone (s : State) (w : Word) : (s.answer w).initDone = s.initDone := rfl
@[simp] theorem State.answer_err (s : State) (w : Word) : (s.answer w).err = s.err := rfl
@[simp] theorem State.answer_cpi (s : State) (w : Word) : (s.answer w).cpi = s.cpi := rfl
@[simp] theorem State.answer_loopdur (s : State) (w : Word) : (s.answer w).loopdur = s.loopdur := rfl
@[simp] theorem State.answer_maxspeed (s : State) (w : Word) : (s.answer w).maxspeed = s.maxspeed := rfl
@[simp] theorem State.answer_fs (s : State) (w : Word) : (s.answer w).fs = s.fs := rfl
@[simp] theorem State.answer_wfAddr (s : State) (w : Word) : (s.answer w).wfAddr = s.wfAddr := rfl
@[simp] theorem State.answer_axisAddr (s : State) (w : Word) : (s.answer w).axisAddr = s.axisAddr := rfl
@[simp] theorem State.answer_renderOpen (s : State) (w : Word) : (s.answer w).renderOpen = s.renderOpen := rfl
@[simp] theorem State.answer_hist (s : State) (w : Word) : (s.answer w).hist = s.hist := rfl
@[simp] theorem State.answer_answers (s : State) (w : Word) : (s.answer w).answers = s.answers ++ [w] := rfl

/-! ### State.clearRecord -/

@[simp] theorem State.clearRecord_caps (s : State) : (s.clearRecord).caps = s.caps := rfl
@[simp] theorem State.clearRecord_env (s : State) : (s.clearRecord).env = s.env := rfl
@[simp] theorem State.clearRecord_cs (s : State) : (s.clearRecord).cs = s.cs := rfl
@[simp] theorem State.clearRecord_phase (s : State) : (s.clearRecord).phase = s.phase := rfl
@[simp] theorem State.clearRecord_byte (s : State) : (s.clearRecord).byte = s.byte := rfl
@[simp] theorem State.clearRecord_fb (s : State) : (s.clearRecord).fb = s.fb := rfl
@[simp] theorem State.clearRecord_cnt (s : State) : (s.clearRecord).cnt = s.cnt := rfl
@[simp] theorem State.clearRecord_fr (s : State) : (s.clearRecord).fr = s.fr := rfl
@[simp] theorem State.clearRecord_frlen (s : State) : (s.clearRecord).frlen = s.frlen := rfl
@[simp] theorem State.clearRecord_smp (s : State) : (s.clearRecord).smp = s.smp := rfl
@[simp] theorem State.clearRecord_xw (s : State) : (s.clearRecord).xw = s.xw := rfl
@[simp] theorem State.clearRecord_xre (s : State) : (s.clearRecord).xre = s.xre := rfl
@[simp] theorem State.clearRecord_xim (s : State) : (s.clearRecord).xim = s.xim := rfl
@[simp] theorem State.clearRecord_mag (s : State) : (s.clearRecord).mag = s.mag := rfl
@[simp] theorem State.clearRecord_dbv (s : State) : (s.clearRecord).dbv = s.dbv := rfl
@[simp] theorem State.clearRecord_row (s : State) : (s.clearRecord).row = s.row := rfl
@[simp] theorem State.clearRecord_n (s : State) : (s.clearRecord).n = s.n := rfl
@[simp] theorem State.clearRecord_depth (s : State) : (s.clearRecord).depth = s.depth := rfl
@[simp] theorem State.clearRecord_h (s : State) : (s.clearRecord).h = s.h := rfl
@[simp] theorem State.clearRecord_k (s : State) : (s.clearRecord).k = s.k := rfl
@[simp] theorem State.clearRecord_yext (s : State) : (s.clearRecord).yext = s.yext := rfl
@[simp] theorem State.clearRecord_win (s : State) : (s.clearRecord).win = s.win := rfl
@[simp] theorem State.clearRecord_spd (s : State) : (s.clearRecord).spd = s.spd := rfl
@[simp] theorem State.clearRecord_wf (s : State) : (s.clearRecord).wf = s.wf := rfl
@[simp] theorem State.clearRecord_wp (s : State) : (s.clearRecord).wp = s.wp := rfl
@[simp] theorem State.clearRecord_cancelPend (s : State) : (s.clearRecord).cancelPend = false := rfl
@[simp] theorem State.clearRecord_sinkFail (s : State) : (s.clearRecord).sinkFail = false := rfl
@[simp] theorem State.clearRecord_badcmd (s : State) : (s.clearRecord).badcmd = false := rfl
@[simp] theorem State.clearRecord_initDone (s : State) : (s.clearRecord).initDone = s.initDone := rfl
@[simp] theorem State.clearRecord_err (s : State) : (s.clearRecord).err = 0 := rfl
@[simp] theorem State.clearRecord_cpi (s : State) : (s.clearRecord).cpi = s.cpi := rfl
@[simp] theorem State.clearRecord_loopdur (s : State) : (s.clearRecord).loopdur = s.loopdur := rfl
@[simp] theorem State.clearRecord_maxspeed (s : State) : (s.clearRecord).maxspeed = s.maxspeed := rfl
@[simp] theorem State.clearRecord_fs (s : State) : (s.clearRecord).fs = s.fs := rfl
@[simp] theorem State.clearRecord_wfAddr (s : State) : (s.clearRecord).wfAddr = s.wfAddr := rfl
@[simp] theorem State.clearRecord_axisAddr (s : State) : (s.clearRecord).axisAddr = s.axisAddr := rfl
@[simp] theorem State.clearRecord_renderOpen (s : State) : (s.clearRecord).renderOpen = s.renderOpen := rfl
@[simp] theorem State.clearRecord_hist (s : State) : (s.clearRecord).hist = s.hist := rfl
@[simp] theorem State.clearRecord_answers (s : State) : (s.clearRecord).answers = s.answers := rfl

/-! ### enterFatal -/

@[simp] theorem enterFatal_caps (f : FaultCause) (s : State) : (enterFatal f s).caps = s.caps := rfl
@[simp] theorem enterFatal_env (f : FaultCause) (s : State) : (enterFatal f s).env = s.env := rfl
@[simp] theorem enterFatal_cs (f : FaultCause) (s : State) : (enterFatal f s).cs = .stopped := rfl
@[simp] theorem enterFatal_phase (f : FaultCause) (s : State) : (enterFatal f s).phase = codeIdle := rfl
@[simp] theorem enterFatal_byte (f : FaultCause) (s : State) : (enterFatal f s).byte = s.byte := rfl
@[simp] theorem enterFatal_fb (f : FaultCause) (s : State) : (enterFatal f s).fb = s.fb := rfl
@[simp] theorem enterFatal_cnt (f : FaultCause) (s : State) : (enterFatal f s).cnt = s.cnt := rfl
@[simp] theorem enterFatal_fr (f : FaultCause) (s : State) : (enterFatal f s).fr = s.fr := rfl
@[simp] theorem enterFatal_frlen (f : FaultCause) (s : State) : (enterFatal f s).frlen = s.frlen := rfl
@[simp] theorem enterFatal_smp (f : FaultCause) (s : State) : (enterFatal f s).smp = s.smp := rfl
@[simp] theorem enterFatal_xw (f : FaultCause) (s : State) : (enterFatal f s).xw = s.xw := rfl
@[simp] theorem enterFatal_xre (f : FaultCause) (s : State) : (enterFatal f s).xre = s.xre := rfl
@[simp] theorem enterFatal_xim (f : FaultCause) (s : State) : (enterFatal f s).xim = s.xim := rfl
@[simp] theorem enterFatal_mag (f : FaultCause) (s : State) : (enterFatal f s).mag = s.mag := rfl
@[simp] theorem enterFatal_dbv (f : FaultCause) (s : State) : (enterFatal f s).dbv = s.dbv := rfl
@[simp] theorem enterFatal_row (f : FaultCause) (s : State) : (enterFatal f s).row = s.row := rfl
@[simp] theorem enterFatal_n (f : FaultCause) (s : State) : (enterFatal f s).n = s.n := rfl
@[simp] theorem enterFatal_depth (f : FaultCause) (s : State) : (enterFatal f s).depth = s.depth := rfl
@[simp] theorem enterFatal_h (f : FaultCause) (s : State) : (enterFatal f s).h = s.h := rfl
@[simp] theorem enterFatal_k (f : FaultCause) (s : State) : (enterFatal f s).k = s.k := rfl
@[simp] theorem enterFatal_yext (f : FaultCause) (s : State) : (enterFatal f s).yext = s.yext := rfl
@[simp] theorem enterFatal_win (f : FaultCause) (s : State) : (enterFatal f s).win = s.win := rfl
@[simp] theorem enterFatal_spd (f : FaultCause) (s : State) : (enterFatal f s).spd = s.spd := rfl
@[simp] theorem enterFatal_wf (f : FaultCause) (s : State) : (enterFatal f s).wf = s.wf := rfl
@[simp] theorem enterFatal_wp (f : FaultCause) (s : State) : (enterFatal f s).wp = s.wp := rfl
@[simp] theorem enterFatal_cancelPend (f : FaultCause) (s : State) : (enterFatal f s).cancelPend = false := rfl
@[simp] theorem enterFatal_sinkFail (f : FaultCause) (s : State) : (enterFatal f s).sinkFail = s.sinkFail := rfl
@[simp] theorem enterFatal_badcmd (f : FaultCause) (s : State) : (enterFatal f s).badcmd = s.badcmd := rfl
@[simp] theorem enterFatal_initDone (f : FaultCause) (s : State) : (enterFatal f s).initDone = s.initDone := rfl
@[simp] theorem enterFatal_err (f : FaultCause) (s : State) : (enterFatal f s).err = f.code := rfl
@[simp] theorem enterFatal_cpi (f : FaultCause) (s : State) : (enterFatal f s).cpi = s.cpi := rfl
@[simp] theorem enterFatal_loopdur (f : FaultCause) (s : State) : (enterFatal f s).loopdur = s.loopdur := rfl
@[simp] theorem enterFatal_maxspeed (f : FaultCause) (s : State) : (enterFatal f s).maxspeed = s.maxspeed := rfl
@[simp] theorem enterFatal_fs (f : FaultCause) (s : State) : (enterFatal f s).fs = s.fs := rfl
@[simp] theorem enterFatal_wfAddr (f : FaultCause) (s : State) : (enterFatal f s).wfAddr = s.wfAddr := rfl
@[simp] theorem enterFatal_axisAddr (f : FaultCause) (s : State) : (enterFatal f s).axisAddr = s.axisAddr := rfl
@[simp] theorem enterFatal_renderOpen (f : FaultCause) (s : State) : (enterFatal f s).renderOpen = s.renderOpen := rfl
@[simp] theorem enterFatal_hist (f : FaultCause) (s : State) : (enterFatal f s).hist = if f = .malformedFrame then s.hist ++ [.release] else s.hist := rfl
@[simp] theorem enterFatal_answers (f : FaultCause) (s : State) : (enterFatal f s).answers = s.answers := rfl

/-! ### enterSinkUnavailable -/

@[simp] theorem enterSinkUnavailable_caps (s : State) : (enterSinkUnavailable s).caps = s.caps := rfl
@[simp] theorem enterSinkUnavailable_env (s : State) : (enterSinkUnavailable s).env = s.env := rfl
@[simp] theorem enterSinkUnavailable_cs (s : State) : (enterSinkUnavailable s).cs = s.cs := rfl
@[simp] theorem enterSinkUnavailable_phase (s : State) : (enterSinkUnavailable s).phase = s.phase := rfl
@[simp] theorem enterSinkUnavailable_byte (s : State) : (enterSinkUnavailable s).byte = s.byte := rfl
@[simp] theorem enterSinkUnavailable_fb (s : State) : (enterSinkUnavailable s).fb = s.fb := rfl
@[simp] theorem enterSinkUnavailable_cnt (s : State) : (enterSinkUnavailable s).cnt = s.cnt := rfl
@[simp] theorem enterSinkUnavailable_fr (s : State) : (enterSinkUnavailable s).fr = s.fr := rfl
@[simp] theorem enterSinkUnavailable_frlen (s : State) : (enterSinkUnavailable s).frlen = s.frlen := rfl
@[simp] theorem enterSinkUnavailable_smp (s : State) : (enterSinkUnavailable s).smp = s.smp := rfl
@[simp] theorem enterSinkUnavailable_xw (s : State) : (enterSinkUnavailable s).xw = s.xw := rfl
@[simp] theorem enterSinkUnavailable_xre (s : State) : (enterSinkUnavailable s).xre = s.xre := rfl
@[simp] theorem enterSinkUnavailable_xim (s : State) : (enterSinkUnavailable s).xim = s.xim := rfl
@[simp] theorem enterSinkUnavailable_mag (s : State) : (enterSinkUnavailable s).mag = s.mag := rfl
@[simp] theorem enterSinkUnavailable_dbv (s : State) : (enterSinkUnavailable s).dbv = s.dbv := rfl
@[simp] theorem enterSinkUnavailable_row (s : State) : (enterSinkUnavailable s).row = s.row := rfl
@[simp] theorem enterSinkUnavailable_n (s : State) : (enterSinkUnavailable s).n = s.n := rfl
@[simp] theorem enterSinkUnavailable_depth (s : State) : (enterSinkUnavailable s).depth = s.depth := rfl
@[simp] theorem enterSinkUnavailable_h (s : State) : (enterSinkUnavailable s).h = s.h := rfl
@[simp] theorem enterSinkUnavailable_k (s : State) : (enterSinkUnavailable s).k = s.k := rfl
@[simp] theorem enterSinkUnavailable_yext (s : State) : (enterSinkUnavailable s).yext = s.yext := rfl
@[simp] theorem enterSinkUnavailable_win (s : State) : (enterSinkUnavailable s).win = s.win := rfl
@[simp] theorem enterSinkUnavailable_spd (s : State) : (enterSinkUnavailable s).spd = s.spd := rfl
@[simp] theorem enterSinkUnavailable_wf (s : State) : (enterSinkUnavailable s).wf = s.wf := rfl
@[simp] theorem enterSinkUnavailable_wp (s : State) : (enterSinkUnavailable s).wp = s.wp := rfl
@[simp] theorem enterSinkUnavailable_cancelPend (s : State) : (enterSinkUnavailable s).cancelPend = s.cancelPend := rfl
@[simp] theorem enterSinkUnavailable_sinkFail (s : State) : (enterSinkUnavailable s).sinkFail = true := rfl
@[simp] theorem enterSinkUnavailable_badcmd (s : State) : (enterSinkUnavailable s).badcmd = s.badcmd := rfl
@[simp] theorem enterSinkUnavailable_initDone (s : State) : (enterSinkUnavailable s).initDone = s.initDone := rfl
@[simp] theorem enterSinkUnavailable_err (s : State) : (enterSinkUnavailable s).err = s.err := rfl
@[simp] theorem enterSinkUnavailable_cpi (s : State) : (enterSinkUnavailable s).cpi = s.cpi := rfl
@[simp] theorem enterSinkUnavailable_loopdur (s : State) : (enterSinkUnavailable s).loopdur = s.loopdur := rfl
@[simp] theorem enterSinkUnavailable_maxspeed (s : State) : (enterSinkUnavailable s).maxspeed = s.maxspeed := rfl
@[simp] theorem enterSinkUnavailable_fs (s : State) : (enterSinkUnavailable s).fs = s.fs := rfl
@[simp] theorem enterSinkUnavailable_wfAddr (s : State) : (enterSinkUnavailable s).wfAddr = s.wfAddr := rfl
@[simp] theorem enterSinkUnavailable_axisAddr (s : State) : (enterSinkUnavailable s).axisAddr = s.axisAddr := rfl
@[simp] theorem enterSinkUnavailable_renderOpen (s : State) : (enterSinkUnavailable s).renderOpen = s.renderOpen := rfl
@[simp] theorem enterSinkUnavailable_hist (s : State) : (enterSinkUnavailable s).hist = s.hist := rfl
@[simp] theorem enterSinkUnavailable_answers (s : State) : (enterSinkUnavailable s).answers = s.answers := rfl

/-! ### enterBadCommand -/

@[simp] theorem enterBadCommand_caps (s : State) : (enterBadCommand s).caps = s.caps := rfl
@[simp] theorem enterBadCommand_env (s : State) : (enterBadCommand s).env = s.env := rfl
@[simp] theorem enterBadCommand_cs (s : State) : (enterBadCommand s).cs = s.cs := rfl
@[simp] theorem enterBadCommand_phase (s : State) : (enterBadCommand s).phase = s.phase := rfl
@[simp] theorem enterBadCommand_byte (s : State) : (enterBadCommand s).byte = s.byte := rfl
@[simp] theorem enterBadCommand_fb (s : State) : (enterBadCommand s).fb = s.fb := rfl
@[simp] theorem enterBadCommand_cnt (s : State) : (enterBadCommand s).cnt = s.cnt := rfl
@[simp] theorem enterBadCommand_fr (s : State) : (enterBadCommand s).fr = s.fr := rfl
@[simp] theorem enterBadCommand_frlen (s : State) : (enterBadCommand s).frlen = s.frlen := rfl
@[simp] theorem enterBadCommand_smp (s : State) : (enterBadCommand s).smp = s.smp := rfl
@[simp] theorem enterBadCommand_xw (s : State) : (enterBadCommand s).xw = s.xw := rfl
@[simp] theorem enterBadCommand_xre (s : State) : (enterBadCommand s).xre = s.xre := rfl
@[simp] theorem enterBadCommand_xim (s : State) : (enterBadCommand s).xim = s.xim := rfl
@[simp] theorem enterBadCommand_mag (s : State) : (enterBadCommand s).mag = s.mag := rfl
@[simp] theorem enterBadCommand_dbv (s : State) : (enterBadCommand s).dbv = s.dbv := rfl
@[simp] theorem enterBadCommand_row (s : State) : (enterBadCommand s).row = s.row := rfl
@[simp] theorem enterBadCommand_n (s : State) : (enterBadCommand s).n = s.n := rfl
@[simp] theorem enterBadCommand_depth (s : State) : (enterBadCommand s).depth = s.depth := rfl
@[simp] theorem enterBadCommand_h (s : State) : (enterBadCommand s).h = s.h := rfl
@[simp] theorem enterBadCommand_k (s : State) : (enterBadCommand s).k = s.k := rfl
@[simp] theorem enterBadCommand_yext (s : State) : (enterBadCommand s).yext = s.yext := rfl
@[simp] theorem enterBadCommand_win (s : State) : (enterBadCommand s).win = s.win := rfl
@[simp] theorem enterBadCommand_spd (s : State) : (enterBadCommand s).spd = s.spd := rfl
@[simp] theorem enterBadCommand_wf (s : State) : (enterBadCommand s).wf = s.wf := rfl
@[simp] theorem enterBadCommand_wp (s : State) : (enterBadCommand s).wp = s.wp := rfl
@[simp] theorem enterBadCommand_cancelPend (s : State) : (enterBadCommand s).cancelPend = s.cancelPend := rfl
@[simp] theorem enterBadCommand_sinkFail (s : State) : (enterBadCommand s).sinkFail = s.sinkFail := rfl
@[simp] theorem enterBadCommand_badcmd (s : State) : (enterBadCommand s).badcmd = true := rfl
@[simp] theorem enterBadCommand_initDone (s : State) : (enterBadCommand s).initDone = s.initDone := rfl
@[simp] theorem enterBadCommand_err (s : State) : (enterBadCommand s).err = s.err := rfl
@[simp] theorem enterBadCommand_cpi (s : State) : (enterBadCommand s).cpi = s.cpi := rfl
@[simp] theorem enterBadCommand_loopdur (s : State) : (enterBadCommand s).loopdur = s.loopdur := rfl
@[simp] theorem enterBadCommand_maxspeed (s : State) : (enterBadCommand s).maxspeed = s.maxspeed := rfl
@[simp] theorem enterBadCommand_fs (s : State) : (enterBadCommand s).fs = s.fs := rfl
@[simp] theorem enterBadCommand_wfAddr (s : State) : (enterBadCommand s).wfAddr = s.wfAddr := rfl
@[simp] theorem enterBadCommand_axisAddr (s : State) : (enterBadCommand s).axisAddr = s.axisAddr := rfl
@[simp] theorem enterBadCommand_renderOpen (s : State) : (enterBadCommand s).renderOpen = s.renderOpen := rfl
@[simp] theorem enterBadCommand_hist (s : State) : (enterBadCommand s).hist = s.hist := rfl
@[simp] theorem enterBadCommand_answers (s : State) : (enterBadCommand s).answers = s.answers := rfl

/-! ### initialise -/

@[simp] theorem initialise_caps (d : Derived) (s : State) : (initialise d s).caps = s.caps := rfl
@[simp] theorem initialise_env (d : Derived) (s : State) : (initialise d s).env = s.env := rfl
@[simp] theorem initialise_cs (d : Derived) (s : State) : (initialise d s).cs = .running := rfl
@[simp] theorem initialise_phase (d : Derived) (s : State) : (initialise d s).phase = codePoll := rfl
@[simp] theorem initialise_byte (d : Derived) (s : State) : (initialise d s).byte = s.byte := rfl
@[simp] theorem initialise_fb (d : Derived) (s : State) : (initialise d s).fb = s.fb := rfl
@[simp] theorem initialise_cnt (d : Derived) (s : State) : (initialise d s).cnt = 0 := rfl
@[simp] theorem initialise_fr (d : Derived) (s : State) : (initialise d s).fr = s.fr := rfl
@[simp] theorem initialise_frlen (d : Derived) (s : State) : (initialise d s).frlen = 0 := rfl
@[simp] theorem initialise_smp (d : Derived) (s : State) : (initialise d s).smp = s.smp := rfl
@[simp] theorem initialise_xw (d : Derived) (s : State) : (initialise d s).xw = s.xw := rfl
@[simp] theorem initialise_xre (d : Derived) (s : State) : (initialise d s).xre = s.xre := rfl
@[simp] theorem initialise_xim (d : Derived) (s : State) : (initialise d s).xim = s.xim := rfl
@[simp] theorem initialise_mag (d : Derived) (s : State) : (initialise d s).mag = s.mag := rfl
@[simp] theorem initialise_dbv (d : Derived) (s : State) : (initialise d s).dbv = s.dbv := rfl
@[simp] theorem initialise_row (d : Derived) (s : State) : (initialise d s).row = s.row := rfl
@[simp] theorem initialise_n (d : Derived) (s : State) : (initialise d s).n = BitVec.ofNat 17 d.n := rfl
@[simp] theorem initialise_depth (d : Derived) (s : State) : (initialise d s).depth = BitVec.ofNat 17 d.depth := rfl
@[simp] theorem initialise_h (d : Derived) (s : State) : (initialise d s).h = BitVec.ofNat 16 d.h := rfl
@[simp] theorem initialise_k (d : Derived) (s : State) : (initialise d s).k = BitVec.ofNat 16 d.k := rfl
@[simp] theorem initialise_yext (d : Derived) (s : State) : (initialise d s).yext = s.loopdur := rfl
@[simp] theorem initialise_win (d : Derived) (s : State) : (initialise d s).win = s.win.write 0 (hannTable d.n) := rfl
@[simp] theorem initialise_spd (d : Derived) (s : State) : (initialise d s).spd = s.spd.write 0 (speedTable d.n s.fs.toNat d.k) := rfl
@[simp] theorem initialise_wf (d : Derived) (s : State) : (initialise d s).wf = zeroFill s.wf d.k d.depth := rfl
@[simp] theorem initialise_wp (d : Derived) (s : State) : (initialise d s).wp = 0 := rfl
@[simp] theorem initialise_cancelPend (d : Derived) (s : State) : (initialise d s).cancelPend = s.cancelPend := rfl
@[simp] theorem initialise_sinkFail (d : Derived) (s : State) : (initialise d s).sinkFail = s.sinkFail := rfl
@[simp] theorem initialise_badcmd (d : Derived) (s : State) : (initialise d s).badcmd = s.badcmd := rfl
@[simp] theorem initialise_initDone (d : Derived) (s : State) : (initialise d s).initDone = true := rfl
@[simp] theorem initialise_err (d : Derived) (s : State) : (initialise d s).err = s.err := rfl
@[simp] theorem initialise_cpi (d : Derived) (s : State) : (initialise d s).cpi = s.cpi := rfl
@[simp] theorem initialise_loopdur (d : Derived) (s : State) : (initialise d s).loopdur = s.loopdur := rfl
@[simp] theorem initialise_maxspeed (d : Derived) (s : State) : (initialise d s).maxspeed = s.maxspeed := rfl
@[simp] theorem initialise_fs (d : Derived) (s : State) : (initialise d s).fs = s.fs := rfl
@[simp] theorem initialise_wfAddr (d : Derived) (s : State) : (initialise d s).wfAddr = s.wfAddr := rfl
@[simp] theorem initialise_axisAddr (d : Derived) (s : State) : (initialise d s).axisAddr = s.axisAddr := rfl
@[simp] theorem initialise_renderOpen (d : Derived) (s : State) : (initialise d s).renderOpen = s.renderOpen := rfl
@[simp] theorem initialise_hist (d : Derived) (s : State) : (initialise d s).hist = s.hist := rfl
@[simp] theorem initialise_answers (d : Derived) (s : State) : (initialise d s).answers = s.answers := rfl

/-! ### State.hardwareReset (R225): every field but the capacities and the inputs takes its reset value -/

@[simp] theorem State.hardwareReset_caps (s : State) : s.hardwareReset.caps = s.caps := rfl
@[simp] theorem State.hardwareReset_env (s : State) : s.hardwareReset.env = s.env := rfl
@[simp] theorem State.hardwareReset_cs (s : State) : s.hardwareReset.cs = State.reset.cs := rfl
@[simp] theorem State.hardwareReset_phase (s : State) : s.hardwareReset.phase = State.reset.phase := rfl
@[simp] theorem State.hardwareReset_byte (s : State) : s.hardwareReset.byte = State.reset.byte := rfl
@[simp] theorem State.hardwareReset_fb (s : State) : s.hardwareReset.fb = State.reset.fb := rfl
@[simp] theorem State.hardwareReset_cnt (s : State) : s.hardwareReset.cnt = State.reset.cnt := rfl
@[simp] theorem State.hardwareReset_fr (s : State) : s.hardwareReset.fr = State.reset.fr := rfl
@[simp] theorem State.hardwareReset_frlen (s : State) : s.hardwareReset.frlen = State.reset.frlen := rfl
@[simp] theorem State.hardwareReset_smp (s : State) : s.hardwareReset.smp = State.reset.smp := rfl
@[simp] theorem State.hardwareReset_xw (s : State) : s.hardwareReset.xw = State.reset.xw := rfl
@[simp] theorem State.hardwareReset_xre (s : State) : s.hardwareReset.xre = State.reset.xre := rfl
@[simp] theorem State.hardwareReset_xim (s : State) : s.hardwareReset.xim = State.reset.xim := rfl
@[simp] theorem State.hardwareReset_mag (s : State) : s.hardwareReset.mag = State.reset.mag := rfl
@[simp] theorem State.hardwareReset_dbv (s : State) : s.hardwareReset.dbv = State.reset.dbv := rfl
@[simp] theorem State.hardwareReset_row (s : State) : s.hardwareReset.row = State.reset.row := rfl
@[simp] theorem State.hardwareReset_n (s : State) : s.hardwareReset.n = State.reset.n := rfl
@[simp] theorem State.hardwareReset_depth (s : State) : s.hardwareReset.depth = State.reset.depth := rfl
@[simp] theorem State.hardwareReset_h (s : State) : s.hardwareReset.h = State.reset.h := rfl
@[simp] theorem State.hardwareReset_k (s : State) : s.hardwareReset.k = State.reset.k := rfl
@[simp] theorem State.hardwareReset_yext (s : State) : s.hardwareReset.yext = State.reset.yext := rfl
@[simp] theorem State.hardwareReset_win (s : State) : s.hardwareReset.win = State.reset.win := rfl
@[simp] theorem State.hardwareReset_spd (s : State) : s.hardwareReset.spd = State.reset.spd := rfl
@[simp] theorem State.hardwareReset_wf (s : State) : s.hardwareReset.wf = State.reset.wf := rfl
@[simp] theorem State.hardwareReset_wp (s : State) : s.hardwareReset.wp = State.reset.wp := rfl
@[simp] theorem State.hardwareReset_cancelPend (s : State) : s.hardwareReset.cancelPend = State.reset.cancelPend := rfl
@[simp] theorem State.hardwareReset_sinkFail (s : State) : s.hardwareReset.sinkFail = State.reset.sinkFail := rfl
@[simp] theorem State.hardwareReset_badcmd (s : State) : s.hardwareReset.badcmd = State.reset.badcmd := rfl
@[simp] theorem State.hardwareReset_initDone (s : State) : s.hardwareReset.initDone = State.reset.initDone := rfl
@[simp] theorem State.hardwareReset_err (s : State) : s.hardwareReset.err = State.reset.err := rfl
@[simp] theorem State.hardwareReset_cpi (s : State) : s.hardwareReset.cpi = State.reset.cpi := rfl
@[simp] theorem State.hardwareReset_loopdur (s : State) : s.hardwareReset.loopdur = State.reset.loopdur := rfl
@[simp] theorem State.hardwareReset_maxspeed (s : State) : s.hardwareReset.maxspeed = State.reset.maxspeed := rfl
@[simp] theorem State.hardwareReset_fs (s : State) : s.hardwareReset.fs = State.reset.fs := rfl
@[simp] theorem State.hardwareReset_wfAddr (s : State) : s.hardwareReset.wfAddr = State.reset.wfAddr := rfl
@[simp] theorem State.hardwareReset_axisAddr (s : State) : s.hardwareReset.axisAddr = State.reset.axisAddr := rfl
@[simp] theorem State.hardwareReset_renderOpen (s : State) : s.hardwareReset.renderOpen = State.reset.renderOpen := rfl
@[simp] theorem State.hardwareReset_hist (s : State) : s.hardwareReset.hist = State.reset.hist := rfl
@[simp] theorem State.hardwareReset_answers (s : State) : s.hardwareReset.answers = State.reset.answers := rfl

end Sys2Proof.Machine
end

