-- ==== Sys2Proof/Laws/Memory.lean ====
section
/-!
SUPPORT. What the array operations do: read after write, the canonical form, and when a read or a write goes through.
-/

namespace Sys2Proof.Machine

variable {α : Type}

/-! ### Lookups -/

theorem Memory.get_nil (i : Nat) : Memory.get ([] : Memory α) i = none := rfl

theorem Memory.get_cons (c : Nat × α) (m : Memory α) (i : Nat) :
    Memory.get (c :: m) i = if i = c.1 then some c.2 else Memory.get m i := by
  obtain ⟨a, x⟩ := c
  by_cases h : i = a
  · subst h; simp [Memory.get, List.lookup]
  · simp [Memory.get, List.lookup, h, beq_eq_false_iff_ne.mpr h]

theorem Memory.get_append (m₁ m₂ : Memory α) (i : Nat) :
    Memory.get (m₁ ++ m₂) i = (Memory.get m₁ i).or (Memory.get m₂ i) := by
  induction m₁ with
  | nil => simp [Memory.get_nil]
  | cons c m ih =>
    rw [List.cons_append, Memory.get_cons, Memory.get_cons, ih]
    split <;> rfl

theorem Memory.get_filter (m : Memory α) (p : Nat → Bool) (i : Nat) :
    Memory.get (m.filter (fun c => p c.1)) i = if p i then Memory.get m i else none := by
  induction m with
  | nil => simp [Memory.get_nil]
  | cons c m ih =>
    by_cases hc : p c.1 = true
    · rw [List.filter_cons_of_pos (by simpa using hc), Memory.get_cons, Memory.get_cons, ih]
      by_cases hi : i = c.1
      · subst hi; simp [hc]
      · simp [hi]
    · rw [List.filter_cons_of_neg (by simpa using hc), Memory.get_cons, ih]
      by_cases hi : i = c.1
      · subst hi; simp [hc]
      · simp [hi]

theorem Memory.get_block (xs : List α) (base start i : Nat) :
    Memory.get ((xs.zipIdx start).map (fun c => (base + c.2, c.1))) i
      = if base + start ≤ i then xs[i - (base + start)]? else none := by
  induction xs generalizing start with
  | nil => simp [Memory.get_nil]
  | cons x xs ih =>
    rw [List.zipIdx_cons, List.map_cons, Memory.get_cons, ih]
    by_cases h1 : i = base + start
    · simp [h1]
    · by_cases h2 : base + start ≤ i
      · have h3 : base + (start + 1) ≤ i := by omega
        have h4 : i - (base + start) = (i - (base + (start + 1))) + 1 := by omega
        simp [h1, h2, h3, h4]
      · have h3 : ¬ base + (start + 1) ≤ i := by omega
        simp [h1, h2, h3]

/-- Read after write: the elements written read as written, every other element as before. -/
theorem Memory.get_write (m : Memory α) (base : Nat) (xs : List α) (i : Nat) :
    (m.write base xs).get i = if base ≤ i ∧ i < base + xs.length then xs[i - base]? else m.get i := by
  unfold Memory.write
  rw [Memory.get_append, Memory.get_append, Memory.get_filter m (fun a => decide (a < base)),
    Memory.get_filter m (fun a => decide (base + xs.length ≤ a)), Memory.get_block]
  by_cases h1 : i < base
  · have h2 : ¬ base ≤ i := by omega
    have h3 : ¬ base + xs.length ≤ i := by omega
    simp [h1, h2, h3]
  · by_cases h4 : i < base + xs.length
    · have h2 : base ≤ i := by omega
      have h5 : xs[i - base]? = some (xs[i - base]'(by omega)) := List.getElem?_eq_getElem (by omega)
      simp [h1, h2, h4, h5]
    · have h2 : base ≤ i := by omega
      have h3 : base + xs.length ≤ i := by omega
      have h5 : xs[i - base]? = none := List.getElem?_eq_none (by omega)
      simp [h1, h2, h3, h4, h5]

theorem Memory.get_write_of_lt (m : Memory α) (base : Nat) (xs : List α) (j : Nat) (h : j < xs.length) :
    (m.write base xs).get (base + j) = xs[j]? := by
  rw [Memory.get_write, if_pos ⟨by omega, by omega⟩, Nat.add_sub_cancel_left]

theorem Memory.get_write_of_not (m : Memory α) (base : Nat) (xs : List α) (i : Nat)
    (h : ¬ (base ≤ i ∧ i < base + xs.length)) : (m.write base xs).get i = m.get i := by
  rw [Memory.get_write, if_neg h]

/-! ### The canonical form -/

theorem Memory.wf_nil : Memory.wf ([] : Memory α) := List.Pairwise.nil

theorem Memory.wf_block (xs : List α) (base start : Nat) :
    Memory.wf ((xs.zipIdx start).map (fun c => (base + c.2, c.1))) := by
  induction xs generalizing start with
  | nil => exact List.Pairwise.nil
  | cons x xs ih =>
    rw [List.zipIdx_cons, List.map_cons]
    refine List.Pairwise.cons ?_ (ih (start + 1))
    intro c hc
    obtain ⟨⟨y, j⟩, hj, rfl⟩ := List.mem_map.mp hc
    have := List.le_snd_of_mem_zipIdx hj
    simp only at this ⊢
    omega

/-- Every array write keeps the canonical form. -/
theorem Memory.wf_write {m : Memory α} (h : m.wf) (base : Nat) (xs : List α) : (m.write base xs).wf := by
  unfold Memory.write Memory.wf
  rw [List.pairwise_append, List.pairwise_append]
  refine ⟨⟨h.filter _, Memory.wf_block xs base 0, ?_⟩, h.filter _, ?_⟩
  · intro a ha b hb
    obtain ⟨⟨y, j⟩, hj, rfl⟩ := List.mem_map.mp hb
    have h1 := (List.mem_filter.mp ha).2
    simp only [decide_eq_true_eq] at h1
    simp only
    omega
  · intro a ha b hb
    have h1 := (List.mem_filter.mp hb).2
    simp only [decide_eq_true_eq] at h1
    rcases List.mem_append.mp ha with ha | ha
    · have h2 := (List.mem_filter.mp ha).2
      simp only [decide_eq_true_eq] at h2
      omega
    · obtain ⟨⟨y, j⟩, hj, rfl⟩ := List.mem_map.mp ha
      have h3 := (List.mem_zipIdx' hj).1
      simp only at h3 ⊢
      omega

/-! ### Reads that go through -/

theorem collect_eq_ok_iff (f : Nat → Except Fault α) (is : List Nat) (xs : List α) :
    collect f is = .ok xs ↔ is.map f = xs.map .ok := by
  induction is generalizing xs with
  | nil => cases xs <;> simp [collect]
  | cons i is ih =>
    cases hf : f i with
    | error e => cases xs <;> simp [collect, hf]
    | ok x =>
      cases hc : collect f is with
      | error e =>
        simp only [collect, hf, hc]
        refine ⟨nofun, fun h => ?_⟩
        cases xs with
        | nil => simp at h
        | cons y ys =>
          simp only [List.map_cons, List.cons.injEq] at h
          rw [(ih ys).mpr h.2] at hc
          cases hc
      | ok ys =>
        have := (ih ys).mp hc
        simp only [collect, hf, hc, Except.ok.injEq]
        constructor
        · rintro rfl; simp [hf, this]
        · intro h
          cases xs with
          | nil => simp at h
          | cons y zs =>
            simp only [List.map_cons, hf, List.cons.injEq, Except.ok.injEq] at h
            have h2 := (ih zs).mpr h.2
            rw [hc] at h2
            simp only [Except.ok.injEq] at h2
            rw [h.1, h2]

theorem collect_ok_of_forall (f : Nat → Except Fault α) (g : Nat → α) (is : List Nat)
    (h : ∀ i ∈ is, f i = .ok (g i)) : collect f is = .ok (is.map g) := by
  rw [collect_eq_ok_iff, List.map_map]
  exact List.map_congr_left h

/-- Reading one element goes through exactly when it exists and has been written. -/
theorem readElem_eq_ok_iff (c : Caps) (a : Arr) (m : Memory α) (i : Nat) (x : α) :
    readElem c a m i = .ok x ↔ i < a.capacity c ∧ m.get i = some x := by
  unfold readElem
  by_cases h : i < a.capacity c
  · simp only [h, if_true, true_and]
    cases m.get i <;> simp
  · simp [h]

/-- Reading `A[0 .. n-1]` goes through exactly when every element exists and has been written; the list read is the
elements in order. -/
theorem readFirst_eq_ok_iff (c : Caps) (a : Arr) (m : Memory α) (n : Nat) (xs : List α) :
    readFirst c a m n = .ok xs ↔ xs.length = n ∧ n ≤ a.capacity c ∧ ∀ i < n, m.get i = xs[i]? := by
  unfold readFirst
  rw [collect_eq_ok_iff]
  constructor
  · intro h
    have hl : xs.length = n := by simpa using (congrArg List.length h).symm
    have key : ∀ i < n, i < a.capacity c ∧ m.get i = xs[i]? := by
      intro i hi
      have h1 := congrArg (fun l => l[i]?) h
      have h2 : xs[i]? = some (xs[i]'(by omega)) := List.getElem?_eq_getElem (by omega)
      simp only [List.getElem?_map, List.getElem?_range hi, Option.map_some, h2, Option.some.injEq] at h1
      have h3 := (readElem_eq_ok_iff c a m i _).mp h1
      exact ⟨h3.1, by rw [h3.2, h2]⟩
    refine ⟨hl, ?_, fun i hi => (key i hi).2⟩
    by_contra hn
    have := (key (a.capacity c) (by omega)).1
    omega
  · rintro ⟨hl, hc, hg⟩
    apply List.ext_getElem?
    intro i
    by_cases hi : i < n
    · have h2 : xs[i]? = some (xs[i]'(by omega)) := List.getElem?_eq_getElem (by omega)
      simp only [List.getElem?_map, List.getElem?_range hi, Option.map_some, h2, Option.some.injEq]
      exact (readElem_eq_ok_iff c a m i _).mpr ⟨by omega, by rw [hg i hi, h2]⟩
    · rw [List.getElem?_eq_none (by simpa using hi), List.getElem?_eq_none (by simpa [hl] using hi)]

/-- A read of written elements within the capacity goes through. -/
theorem readFirst_of_written (c : Caps) (a : Arr) (m : Memory α) (n : Nat) (hc : n ≤ a.capacity c)
    (hw : m.writtenBelow n) : ∃ xs, readFirst c a m n = .ok xs := by
  have : ∀ i : Fin n, ∃ x, m.get i = some x := fun i => Option.isSome_iff_exists.mp (hw i i.2)
  choose g hg using this
  refine ⟨List.ofFn g, (readFirst_eq_ok_iff c a m n _).mpr ⟨by simp, hc, ?_⟩⟩
  intro i hi
  rw [List.getElem?_eq_getElem (by simpa using hi), List.getElem_ofFn]
  exact hg ⟨i, hi⟩

/-- What was read was written. -/
theorem written_of_readFirst {c : Caps} {a : Arr} {m : Memory α} {n : Nat} {xs : List α}
    (h : readFirst c a m n = .ok xs) : m.writtenBelow n := by
  obtain ⟨hl, -, hg⟩ := (readFirst_eq_ok_iff c a m n xs).mp h
  intro i hi
  rw [hg i hi, List.getElem?_eq_getElem (by omega)]
  rfl

/-- Writing goes through exactly within the capacity. -/
theorem writeElems_eq_ok_iff (c : Caps) (a : Arr) (m : Memory α) (base : Nat) (xs : List α) (m' : Memory α) :
    writeElems c a m base xs = .ok m' ↔ base + xs.length ≤ a.capacity c ∧ m' = m.write base xs := by
  unfold writeElems
  by_cases h : base + xs.length ≤ a.capacity c
  · simp [h, eq_comm]
  · simp [h]

theorem writtenBelow_write (m : Memory α) (xs : List α) (n : Nat) (h : n ≤ xs.length) :
    (m.write 0 xs).writtenBelow n := by
  intro i hi
  have := Memory.get_write_of_lt m 0 xs i (by omega)
  rw [Nat.zero_add] at this
  rw [this, List.getElem?_eq_getElem (by omega)]
  rfl

/-- An attempt answers a next state exactly when its first part goes through and the rest answers it. -/
theorem attempt_eq_next_iff (r : Except Fault α) (f : α → Result) (t : State) :
    attempt r f = .next t ↔ ∃ x, r = .ok x ∧ f x = .next t := by
  cases r <;> simp [attempt]

@[simp] theorem attempt_ok (x : α) (f : α → Result) : attempt (.ok x) f = f x := rfl

@[simp] theorem attempt_error (e : Fault) (f : α → Result) : attempt (.error e) f = .fault e := rfl

end Sys2Proof.Machine
end

