-- ==== Sys2Proof/Laws/Waterfall.lean ====
section
/-!
SUPPORT. What the waterfall operations do: the row map of R55, cells, the row write, the snapshot, the zero fill; and
the pairing of bytes into samples.
-/

namespace Sys2Proof.Machine

/-! ### The row map (R55) -/

theorem phys_lt {depth : Nat} (h : 0 < depth) (wp i : Nat) : phys wp depth i < depth := by
  unfold phys
  have h1 := Int.emod_nonneg ((wp : Int) - 1 - i) (b := (depth : Int)) (by omega)
  have h2 := Int.emod_lt_of_pos ((wp : Int) - 1 - i) (b := (depth : Int)) (by omega)
  omega

/-- The row map without a remainder: count back from the pointer, wrapping once. -/
theorem phys_eq {wp depth i : Nat} (hw : wp < depth) (hi : i < depth) :
    phys wp depth i = if i < wp then wp - 1 - i else depth + wp - 1 - i := by
  unfold phys
  split
  · rw [Int.emod_eq_of_lt (by omega) (by omega)]; omega
  · rw [← Int.add_emod_right, Int.emod_eq_of_lt (by omega) (by omega)]; omega

/-- The oldest row is the one the pointer names (R55). -/
theorem phys_oldest {wp depth : Nat} (hw : wp < depth) : phys wp depth (depth - 1) = wp := by
  rw [phys_eq hw (by omega)]; split <;> omega

theorem phys_injective {wp depth i j : Nat} (hw : wp < depth) (hi : i < depth) (hj : j < depth)
    (h : phys wp depth i = phys wp depth j) : i = j := by
  rw [phys_eq hw hi, phys_eq hw hj] at h
  split at h <;> split at h <;> omega

/-! ### Cells -/

theorem wfCell_injective {p q j l : Nat} (hj : j < 65536) (hl : l < 65536) (h : wfCell p j = wfCell q l) :
    p = q ∧ j = l := by
  unfold wfCell at h; omega

/-- A row write changes the row it names and no other (R58, R159). -/
theorem get_writeRow (wf : Memory Value) (p q j : Nat) (xs : List Value) (hx : xs.length ≤ 65536) (hj : j < 65536) :
    (wf.write (wfCell p 0) xs).get (wfCell q j)
      = if q = p ∧ j < xs.length then xs[j]? else wf.get (wfCell q j) := by
  rw [Memory.get_write]
  unfold wfCell
  by_cases h : q = p ∧ j < xs.length
  · obtain ⟨rfl, h2⟩ := h
    have : 65536 * q + j - (65536 * q + 0) = j := by omega
    rw [if_pos ⟨by omega, by omega⟩, if_pos ⟨rfl, h2⟩, this]
  · rw [if_neg (fun hh => h (by omega)), if_neg h]

theorem wfWriteRow_eq_ok_iff (s : State) (p : Nat) (xs : List Value) (m : Memory Value) :
    wfWriteRow s p xs = .ok m
      ↔ (xs = [] ∨ (p < s.caps.depthMax ∧ xs.length ≤ s.caps.nmax / 2)) ∧ m = s.wf.write (wfCell p 0) xs := by
  unfold wfWriteRow
  by_cases h : xs = [] ∨ (p < s.caps.depthMax ∧ xs.length ≤ s.caps.nmax / 2)
  · simp only [h, if_true, Except.ok.injEq, true_and]; exact eq_comm
  · simp [h]

/-- A logical read goes through exactly when the cell exists and has been written. -/
theorem memRead_eq_ok_iff (s : State) (i j : Nat) (x : Value) :
    memRead s i j = .ok x ↔ phys s.wp.toNat s.depth.toNat i < s.caps.depthMax ∧ j < s.caps.nmax / 2
      ∧ s.wf.get (wfCell (phys s.wp.toNat s.depth.toNat i) j) = some x := by
  unfold memRead wfRead
  by_cases h : phys s.wp.toNat s.depth.toNat i < s.caps.depthMax ∧ j < s.caps.nmax / 2
  · simp only [h, if_true, and_self, true_and]
    cases s.wf.get (wfCell (phys s.wp.toNat s.depth.toNat i) j) <;> simp
  · simp only [h, if_false, reduceCtorEq, false_iff]
    exact fun hh => h ⟨hh.1, hh.2.1⟩

/-- The snapshot goes through exactly when every logical read does, and is those reads in order. -/
theorem snapshot_eq_ok_iff (s : State) (m : List (List Value)) :
    snapshot s = .ok m
      ↔ (List.range s.depth.toNat).map (fun i => collect (memRead s i) (List.range s.k.toNat)) = m.map .ok :=
  collect_eq_ok_iff _ _ _

/-- The snapshot's shape and entries (R163): `DEPTH` rows of `K`, entry `(i, j)` being `MemRead(i, j)`. -/
theorem snapshot_spec {s : State} {m : List (List Value)} (h : snapshot s = .ok m) :
    m.length = s.depth.toNat
      ∧ ∀ i < s.depth.toNat, ∃ r, m[i]? = some r ∧ r.length = s.k.toNat
          ∧ ∀ j < s.k.toNat, ∃ x, r[j]? = some x ∧ memRead s i j = .ok x := by
  have h := (snapshot_eq_ok_iff s m).mp h
  have hl : m.length = s.depth.toNat := by simpa using (congrArg List.length h).symm
  refine ⟨hl, fun i hi => ?_⟩
  have hm : m[i]? = some (m[i]'(by omega)) := List.getElem?_eq_getElem (by omega)
  have h1 := congrArg (fun l => l[i]?) h
  simp only [List.getElem?_map, List.getElem?_range hi, Option.map_some, hm, Option.some.injEq] at h1
  have h2 := (collect_eq_ok_iff _ _ _).mp h1
  have hr : (m[i]'(by omega)).length = s.k.toNat := by simpa using (congrArg List.length h2).symm
  refine ⟨_, hm, hr, fun j hj => ?_⟩
  have hx : (m[i]'(by omega))[j]? = some ((m[i]'(by omega))[j]'(by omega)) := List.getElem?_eq_getElem (by omega)
  have h3 := congrArg (fun l => l[j]?) h2
  simp only [List.getElem?_map, List.getElem?_range hj, Option.map_some, hx, Option.some.injEq] at h3
  exact ⟨_, hx, h3⟩

/-- The snapshot goes through when every cell in use exists and has been written. -/
theorem snapshot_of_written (s : State) (hd : s.depth.toNat ≤ s.caps.depthMax) (hk : s.k.toNat ≤ s.caps.nmax / 2)
    (hw : WaterfallWritten s) : ∃ m, snapshot s = .ok m := by
  have key : ∀ i < s.depth.toNat, ∀ j < s.k.toNat, ∃ x, memRead s i j = .ok x := by
    intro i hi j hj
    have hp := phys_lt (depth := s.depth.toNat) (by omega) s.wp.toNat i
    obtain ⟨x, hx⟩ := Option.isSome_iff_exists.mp (hw _ hp j hj)
    exact ⟨x, (memRead_eq_ok_iff s i j x).mpr ⟨by omega, by omega, hx⟩⟩
  have rows : ∀ i : Fin s.depth.toNat, ∃ r, collect (memRead s i) (List.range s.k.toNat) = .ok r := by
    intro i
    have hv : ∀ j : Fin s.k.toNat, ∃ x, memRead s i j = .ok x := fun j => key i i.2 j j.2
    choose g hg using hv
    refine ⟨List.ofFn g, (collect_eq_ok_iff _ _ _).mpr (List.ext_getElem (by simp) ?_)⟩
    intro j h1 h2
    simp only [List.getElem_map, List.getElem_range, List.getElem_ofFn]
    exact hg ⟨j, by simpa using h1⟩
  choose g hg using rows
  refine ⟨List.ofFn g, (snapshot_eq_ok_iff s _).mpr (List.ext_getElem (by simp) ?_)⟩
  intro i h1 h2
  simp only [List.getElem_map, List.getElem_range, List.getElem_ofFn]
  exact hg ⟨i, by simpa using h1⟩

/-! ### WFINIT -/

theorem zeroFill_wf {wf : Memory Value} (h : wf.wf) (k d : Nat) : (zeroFill wf k d).wf := by
  induction d with
  | zero => exact h
  | succ d ih => exact Memory.wf_write ih _ _

/-- After WFINIT the cells in use hold zero and no other cell has changed (R156). -/
theorem zeroFill_get (wf : Memory Value) (k d p j : Nat) (hk : k ≤ 65536) (hj : j < 65536) :
    (zeroFill wf k d).get (wfCell p j) = if p < d ∧ j < k then some Value.zero else wf.get (wfCell p j) := by
  induction d with
  | zero => simp [zeroFill]
  | succ d ih =>
    rw [zeroFill, get_writeRow _ _ _ _ _ (by simpa using hk) hj, ih, List.length_replicate]
    by_cases h1 : p = d ∧ j < k
    · rw [if_pos h1, if_pos ⟨by omega, h1.2⟩, List.getElem?_replicate, if_pos h1.2]
    · rw [if_neg h1]
      by_cases h2 : p < d ∧ j < k
      · rw [if_pos h2, if_pos ⟨by omega, h2.2⟩]
      · rw [if_neg h2, if_neg (fun h => by omega)]

/-! ### Samples (R100, R104) -/

theorem decodeSamples_length (bs : List Byte) : (decodeSamples bs).length = bs.length / 2 := by
  induction bs using decodeSamples.induct with
  | case1 hi lo bs ih => simp only [decodeSamples, List.length_cons, ih]; omega
  | case2 bs h =>
    match bs, h with
    | [], _ => simp [decodeSamples]
    | [_], _ => simp [decodeSamples]
    | hi :: lo :: bs, h => exact absurd rfl (h hi lo bs)

theorem decodeSamples_getElem? (bs : List Byte) (i : Nat) (hi lo : Byte)
    (h1 : bs[2 * i]? = some hi) (h2 : bs[2 * i + 1]? = some lo) :
    (decodeSamples bs)[i]? = some (Config.num.vdec (sampleWord hi lo)) := by
  induction bs using decodeSamples.induct generalizing i with
  | case1 a b bs ih =>
    cases i with
    | zero => simp_all [decodeSamples]
    | succ i =>
      have e1 : 2 * (i + 1) = 2 * i + 1 + 1 := by omega
      rw [e1] at h1 h2
      simp only [List.getElem?_cons_succ] at h1 h2
      simpa [decodeSamples] using ih i h1 h2
  | case2 bs h =>
    match bs, h with
    | [], _ => simp at h1
    | [_], _ => simp at h2
    | a :: b :: bs, h => exact absurd rfl (h a b bs)

/-- The sample word is `256*hi + lo` (R75). -/
theorem sampleWord_toNat (hi lo : Byte) : (sampleWord hi lo).toNat = 256 * hi.toNat + lo.toNat := by
  unfold sampleWord
  rw [BitVec.toNat_append, Nat.shiftLeft_eq, ← Nat.shiftLeft_eq, ← Nat.shiftLeft_add_eq_or_of_lt lo.isLt,
    Nat.shiftLeft_eq]
  omega

end Sys2Proof.Machine
end

