-- ==== Sys2Proof/Laws/Exec.lean ====
section
/-!
SUPPORT. What each shared operation and each meaning can do: one inversion lemma each ("if it answers next t, then …").
-/

namespace Sys2Proof.Machine

/-! ### Inputs -/

/-- Taking a turn changes the inputs and nothing else. -/
theorem takeTurn_snd (s : State) : ∃ e, (takeTurn s).2 = s.withEnv e := by
  unfold takeTurn; split <;> exact ⟨_, rfl⟩

theorem takeTurn_cons {s : State} {t : Turn} {ts : List Turn} (h : s.env.turns = t :: ts) :
    takeTurn s = (t, s.withEnv { s.env with turns := ts }) := by
  unfold takeTurn; rw [h]

@[simp] theorem State.withEnv_withEnv (s : State) (e e' : Env) : (s.withEnv e).withEnv e' = s.withEnv e' := rfl

@[simp] theorem State.withEnv_self (s : State) : s.withEnv s.env = s := rfl

/-! ### Commands -/

theorem requestCancel_running {s : State} (h : s.cs = .running) : requestCancel s = { s with cancelPend := true } := by
  unfold requestCancel; rw [h]

theorem requestCancel_stopped {s : State} (h : s.cs = .stopped) : requestCancel s = s := by
  unfold requestCancel; rw [h]

theorem runCommand_running {s : State} (h : s.cs = .running) : runCommand s = enterBadCommand s := by
  unfold runCommand; rw [h]

theorem runCommand_stopped {s : State} (h : s.cs = .stopped) : runCommand s = acceptRun s := by
  unfold runCommand; rw [h]

theorem configBad_eq_false_iff (c : Caps) (cpi : BitVec 32) (d : Derived) :
    configBad c cpi d = false
      ↔ cpi ≠ 0 ∧ 2 ≤ d.n ∧ d.n ≤ c.nmax ∧ 1 ≤ d.depth ∧ d.depth ≤ c.depthMax := by
  simp [configBad, and_assoc]
  omega

/-- The state an accepted RUN hands to the source: the record cleared, `open()` emitted, its answer taken (R177, R179). -/
def opened (s : State) : State := (s.clearRecord.emit .openSource).withEnv (afterOpen s.env)

/-- The three outcomes of an accepted RUN (R177, R178, R210). -/
theorem acceptRun_cases (s : State) :
    (configBad s.caps s.cpi (derive s.cpi s.loopdur s.maxspeed s.fs) = true
        ∧ acceptRun s = enterFatal .configError s.clearRecord)
      ∨ (configBad s.caps s.cpi (derive s.cpi s.loopdur s.maxspeed s.fs) = false ∧ openAnswer s = false
        ∧ acceptRun s = enterFatal .sourceUnavailable (opened s))
      ∨ (configBad s.caps s.cpi (derive s.cpi s.loopdur s.maxspeed s.fs) = false ∧ openAnswer s = true
        ∧ acceptRun s = initialise (derive s.cpi s.loopdur s.maxspeed s.fs) (opened s)) := by
  have h1 : openAnswer s.clearRecord = openAnswer s := rfl
  have h2 : (s.clearRecord.emit .openSource).withEnv (afterOpen s.clearRecord.env) = opened s := rfl
  unfold acceptRun
  simp only [State.clearRecord_caps, h1, h2]
  cases hc : configBad s.caps s.cpi (derive s.cpi s.loopdur s.maxspeed s.fs) <;> cases ho : openAnswer s <;> simp [hc]

/-- `K` never exceeds `H` (R133 corner case 2). -/
theorem retainedCount_le (maxspeed n fs h : Nat) : retainedCount maxspeed n fs h ≤ h := by
  unfold retainedCount
  calc _ ≤ (List.range h).length := List.length_filter_le _ _
    _ = h := List.length_range

/-- Bin 0 is always retained, so `K` is at least 1 when there is a bin (R143). -/
theorem retainedCount_pos (maxspeed n fs h : Nat) (hh : 1 ≤ h) : 1 ≤ retainedCount maxspeed n fs h := by
  unfold retainedCount
  apply List.length_pos_of_mem (a := 0)
  rw [List.mem_filter]
  exact ⟨List.mem_range.mpr (by omega), by simp [retained]⟩

/-- The latched integers fit their registers (R27, R149): an admissible configuration is latched exactly. -/
theorem initialise_dims {c : Caps} (hc : c.Ok) {cpi loopdur maxspeed fs : BitVec 32}
    (hb : configBad c cpi (derive cpi loopdur maxspeed fs) = false) (s : State) :
    (initialise (derive cpi loopdur maxspeed fs) s).n.toNat = windowSize cpi fs
      ∧ (initialise (derive cpi loopdur maxspeed fs) s).depth.toNat = rowCount loopdur cpi
      ∧ (initialise (derive cpi loopdur maxspeed fs) s).h.toNat = windowSize cpi fs / 2
      ∧ (initialise (derive cpi loopdur maxspeed fs) s).k.toNat
          = retainedCount maxspeed.toNat (windowSize cpi fs) fs.toNat (windowSize cpi fs / 2) := by
  obtain ⟨-, h2, h3, h4, h5⟩ := (configBad_eq_false_iff _ _ _).mp hb
  obtain ⟨c1, c2, c3, c4⟩ := hc
  have hk := retainedCount_le maxspeed.toNat (windowSize cpi fs) fs.toNat (windowSize cpi fs / 2)
  simp only [derive, oneSided] at h2 h3 h4 h5
  simp only [initialise_n, initialise_depth, initialise_h, initialise_k, derive, oneSided, BitVec.toNat_ofNat]
  exact ⟨Nat.mod_eq_of_lt (by omega), Nat.mod_eq_of_lt (by omega), Nat.mod_eq_of_lt (by omega),
    Nat.mod_eq_of_lt (by omega)⟩

/-! ### The decoder of the commands -/

theorem decodeCommand_run : decodeCommand 1 = .ok .run := by decide

theorem decodeCommand_cancel : decodeCommand 2 = .ok .cancel := by decide

theorem cmdWord_eq_of_fields {w : Word} {op : BitVec 8} (hz : cmdZero w = 0) (ho : cmdOp w = op) :
    w = op.setWidth 64 := by
  have h1 := congrArg BitVec.toNat hz
  have h2 := congrArg BitVec.toNat ho
  simp [cmdZero, cmdOp] at h1 h2
  apply BitVec.eq_of_toNat_eq
  simp only [BitVec.toNat_setWidth]
  have := w.isLt
  omega

/-- The CMD decoder, whole (R73, R79). -/
theorem decodeCommand_eq (w : Word) :
    decodeCommand w = if w = 1 then .ok .run else if w = 2 then .ok .cancel else .error (.illegalCommand w) := by
  by_cases h1 : w = 1
  · subst h1; decide
  by_cases h2 : w = 2
  · subst h2; decide
  rw [if_neg h1, if_neg h2]
  unfold decodeCommand
  by_cases hz : cmdZero w = 0
  · rw [if_neg (by simpa using hz), if_neg (fun ho => h1 ((cmdWord_eq_of_fields hz ho).trans (by decide))),
      if_neg (fun ho => h2 ((cmdWord_eq_of_fields hz ho).trans (by decide)))]
  · rw [if_pos hz]

/-- A word written to CMD, whole (R186, R205). -/
theorem writeCmd_eq (w : Word) (s : State) :
    writeCmd w s = if w = 1 then runCommand s else if w = 2 then requestCancel s else enterBadCommand s := by
  unfold writeCmd
  rw [decodeCommand_eq]
  by_cases h1 : w = 1
  · simp [h1]
  by_cases h2 : w = 2
  · simp [h2]
  · rw [if_neg h1, if_neg h2, if_neg h1, if_neg h2]

/-! ### Meanings -/

@[simp] theorem afterAnswer_none (s : State) : afterAnswer none s = { s with phase := codePoll } := rfl

@[simp] theorem afterAnswer_some (b : Byte) (s : State) :
    afterAnswer (some b) s = { s with byte := b, phase := codePush } := rfl

@[simp] theorem afterRender_ok (s : State) :
    afterRender .ok s = { s with renderOpen := false, phase := codeYield } := rfl

@[simp] theorem afterRender_fail (s : State) :
    afterRender .fail s = { s with sinkFail := true, renderOpen := false, phase := codeYield } := rfl

@[simp] theorem afterRender_noAnswer (s : State) :
    afterRender .noAnswer s = { s with renderOpen := true, phase := codeRender } := rfl

theorem execPoll_next {s t : State} (h : execPoll s = .next t) :
    (s.cancelPend = true ∧ t = s.goto codeStop)
      ∨ (s.cancelPend = false ∧ t = afterAnswer (pollAnswer s) (s.withEnv (afterPoll s.env))) := by
  have h := (Host.Outcome.next.inj h).symm
  split at h
  · exact .inl ⟨‹_›, h⟩
  · exact .inr ⟨Bool.eq_false_iff.mpr ‹_›, h⟩

theorem execPush_next {s t : State} (h : execPush s = .next t) :
    (2 * s.n.toNat ≤ s.cnt.toNat ∧ t = s.goto codeDrain)
      ∨ (s.cnt.toNat < 2 * s.n.toNat ∧ s.cnt.toNat < 2 * s.caps.nmax
        ∧ t = { s with
                fb := s.fb.write s.cnt.toNat [s.byte]
                cnt := s.cnt + 1
                phase := if s.cnt.toNat + 1 = 2 * s.n.toNat then codeDrain else codePoll }) := by
  unfold execPush at h
  split at h
  · exact .inl ⟨‹_›, (Host.Outcome.next.inj h).symm⟩
  · obtain ⟨fb, h1, h2⟩ := (attempt_eq_next_iff _ _ _).mp h
    obtain ⟨h3, rfl⟩ := (writeElems_eq_ok_iff _ _ _ _ _ _).mp h1
    simp only [List.length_singleton, Arr.capacity] at h3
    simp only [isReady, decide_eq_true_eq, Host.Outcome.next.injEq] at h2
    exact .inr ⟨by omega, by omega, h2.symm⟩

theorem execDrain_next {s t : State} (h : execDrain s = .next t) :
    ∃ bs, readFirst s.caps .fb s.fb (2 * s.n.toNat) = .ok bs
      ∧ t = { s with
              fr := s.fr.write 0 bs
              frlen := BitVec.ofNat 18 (2 * s.n.toNat)
              cnt := 0
              phase := codeFlush } := by
  obtain ⟨bs, h1, h2⟩ := (attempt_eq_next_iff _ _ _).mp h
  obtain ⟨fr, h3, h4⟩ := (attempt_eq_next_iff _ _ _).mp h2
  obtain ⟨-, rfl⟩ := (writeElems_eq_ok_iff _ _ _ _ _ _).mp h3
  exact ⟨bs, h1, (Host.Outcome.next.inj h4).symm⟩

theorem execDecode_next {s t : State} (h : execDecode s = .next t) :
    (s.frlen.toNat % 2 = 1 ∧ t = enterFatal .malformedFrame s)
      ∨ (s.frlen.toNat % 2 = 0 ∧ ∃ bs, readFirst s.caps .fr s.fr s.frlen.toNat = .ok bs
        ∧ t = { s with smp := s.smp.write 0 (decodeSamples bs), phase := codeWindow }) := by
  unfold execDecode at h
  split at h
  · exact .inl ⟨‹_›, (Host.Outcome.next.inj h).symm⟩
  · obtain ⟨bs, h1, h2⟩ := (attempt_eq_next_iff _ _ _).mp h
    obtain ⟨smp, h3, h4⟩ := (attempt_eq_next_iff _ _ _).mp h2
    obtain ⟨-, rfl⟩ := (writeElems_eq_ok_iff _ _ _ _ _ _).mp h3
    exact .inr ⟨by omega, bs, h1, (Host.Outcome.next.inj h4).symm⟩

theorem execWindow_next {s t : State} (h : execWindow s = .next t) :
    ∃ xs ws, readFirst s.caps .smp s.smp s.n.toNat = .ok xs ∧ readFirst s.caps .win s.win s.n.toNat = .ok ws
      ∧ t = { s with xw := s.xw.write 0 (List.zipWith Config.num.mul xs ws), phase := codeDft } := by
  obtain ⟨xs, h1, h2⟩ := (attempt_eq_next_iff _ _ _).mp h
  obtain ⟨ws, h3, h4⟩ := (attempt_eq_next_iff _ _ _).mp h2
  obtain ⟨xw, h5, h6⟩ := (attempt_eq_next_iff _ _ _).mp h4
  obtain ⟨-, rfl⟩ := (writeElems_eq_ok_iff _ _ _ _ _ _).mp h5
  exact ⟨xs, ws, h1, h3, (Host.Outcome.next.inj h6).symm⟩

theorem execDft_next {s t : State} (h : execDft s = .next t) :
    ∃ xs, readFirst s.caps .xw s.xw s.n.toNat = .ok xs
      ∧ t = { s with
              xre := s.xre.write 0 ((bins s.n.toNat xs).map Prod.fst)
              xim := s.xim.write 0 ((bins s.n.toNat xs).map Prod.snd)
              phase := codeMag } := by
  obtain ⟨xs, h1, h2⟩ := (attempt_eq_next_iff _ _ _).mp h
  obtain ⟨re, h3, h4⟩ := (attempt_eq_next_iff _ _ _).mp h2
  obtain ⟨im, h5, h6⟩ := (attempt_eq_next_iff _ _ _).mp h4
  obtain ⟨-, rfl⟩ := (writeElems_eq_ok_iff _ _ _ _ _ _).mp h3
  obtain ⟨-, rfl⟩ := (writeElems_eq_ok_iff _ _ _ _ _ _).mp h5
  exact ⟨xs, h1, (Host.Outcome.next.inj h6).symm⟩

theorem execMag_next {s t : State} (h : execMag s = .next t) :
    ∃ re im, readFirst s.caps .xre s.xre s.h.toNat = .ok re ∧ readFirst s.caps .xim s.xim s.h.toNat = .ok im
      ∧ t = { s with mag := s.mag.write 0 (List.zipWith Config.num.mag re im), phase := codeDb } := by
  obtain ⟨re, h1, h2⟩ := (attempt_eq_next_iff _ _ _).mp h
  obtain ⟨im, h3, h4⟩ := (attempt_eq_next_iff _ _ _).mp h2
  obtain ⟨m, h5, h6⟩ := (attempt_eq_next_iff _ _ _).mp h4
  obtain ⟨-, rfl⟩ := (writeElems_eq_ok_iff _ _ _ _ _ _).mp h5
  exact ⟨re, im, h1, h3, (Host.Outcome.next.inj h6).symm⟩

theorem execDb_next {s t : State} (h : execDb s = .next t) :
    ∃ ms, readFirst s.caps .mag s.mag s.h.toNat = .ok ms
      ∧ t = { s with dbv := s.dbv.write 0 (ms.map Config.num.db), phase := codeCrop } := by
  obtain ⟨ms, h1, h2⟩ := (attempt_eq_next_iff _ _ _).mp h
  obtain ⟨m, h5, h6⟩ := (attempt_eq_next_iff _ _ _).mp h2
  obtain ⟨-, rfl⟩ := (writeElems_eq_ok_iff _ _ _ _ _ _).mp h5
  exact ⟨ms, h1, (Host.Outcome.next.inj h6).symm⟩

theorem execCrop_next {s t : State} (h : execCrop s = .next t) :
    ∃ ds, readFirst s.caps .dbv s.dbv s.k.toNat = .ok ds
      ∧ t = { s with row := s.row.write 0 ds, phase := codeUpdate } := by
  obtain ⟨ds, h1, h2⟩ := (attempt_eq_next_iff _ _ _).mp h
  obtain ⟨m, h5, h6⟩ := (attempt_eq_next_iff _ _ _).mp h2
  obtain ⟨-, rfl⟩ := (writeElems_eq_ok_iff _ _ _ _ _ _).mp h5
  exact ⟨ds, h1, (Host.Outcome.next.inj h6).symm⟩

theorem execUpdate_next {s t : State} (h : execUpdate s = .next t) :
    ∃ xs, readFirst s.caps .row s.row s.k.toNat = .ok xs
      ∧ t = { s with
              wf := s.wf.write (wfCell s.wp.toNat 0) xs
              wp := nextWp s.wp s.depth
              phase := codeRender } := by
  obtain ⟨xs, h1, h2⟩ := (attempt_eq_next_iff _ _ _).mp h
  obtain ⟨wf, h3, h4⟩ := (attempt_eq_next_iff _ _ _).mp h2
  obtain ⟨-, rfl⟩ := (wfWriteRow_eq_ok_iff _ _ _ _).mp h3
  exact ⟨xs, h1, (Host.Outcome.next.inj h4).symm⟩

theorem execRender_next {s t : State} (h : execRender s = .next t) :
    ∃ matrix axis, snapshot s = .ok matrix ∧ readFirst s.caps .spd s.spd s.k.toNat = .ok axis
      ∧ t = afterRender (sinkAnswer s)
          ((if s.renderOpen then s else s.emit (.render matrix axis (yExtent s.yext))).withEnv (afterSink s.env)) := by
  obtain ⟨m, h1, h2⟩ := (attempt_eq_next_iff _ _ _).mp h
  obtain ⟨a, h3, h4⟩ := (attempt_eq_next_iff _ _ _).mp h2
  exact ⟨m, a, h1, h3, (Host.Outcome.next.inj h4).symm⟩

theorem execRdreg_next {s t : State} {idx : BitVec 8} (h : execRdreg idx s = .next t) :
    ∃ w, readReg s (regName idx) = .ok w ∧ t = s.answer w := by
  obtain ⟨w, h1, h2⟩ := (attempt_eq_next_iff _ _ _).mp h
  exact ⟨w, h1, (Host.Outcome.next.inj h2).symm⟩

/-! ### When a meaning goes through -/

theorem execDrain_eq {s : State} {bs : List Byte} (h : readFirst s.caps .fb s.fb (2 * s.n.toNat) = .ok bs) :
    execDrain s = .next { s with
      fr := s.fr.write 0 bs
      frlen := BitVec.ofNat 18 (2 * s.n.toNat)
      cnt := 0
      phase := codeFlush } := by
  obtain ⟨hl, hc, -⟩ := (readFirst_eq_ok_iff _ _ _ _ _).mp h
  have hw := (writeElems_eq_ok_iff s.caps .fr s.fr 0 bs _).mpr ⟨by rw [hl, Nat.zero_add]; exact hc, rfl⟩
  unfold execDrain
  rw [h, attempt_ok, hw, attempt_ok]

theorem execDecode_eq {s : State} {bs : List Byte} (he : s.frlen.toNat % 2 = 0)
    (h : readFirst s.caps .fr s.fr s.frlen.toNat = .ok bs) :
    execDecode s = .next { s with smp := s.smp.write 0 (decodeSamples bs), phase := codeWindow } := by
  obtain ⟨hl, hc, -⟩ := (readFirst_eq_ok_iff _ _ _ _ _).mp h
  have hd := decodeSamples_length bs
  have hw := (writeElems_eq_ok_iff s.caps .smp s.smp 0 (decodeSamples bs) _).mpr
    ⟨by simp only [Arr.capacity] at hc ⊢; omega, rfl⟩
  unfold execDecode
  rw [if_neg (by omega), h, attempt_ok, hw, attempt_ok]

theorem execWindow_eq {s : State} {xs ws : List Value} (h : readFirst s.caps .smp s.smp s.n.toNat = .ok xs)
    (h' : readFirst s.caps .win s.win s.n.toNat = .ok ws) :
    execWindow s = .next { s with xw := s.xw.write 0 (List.zipWith Config.num.mul xs ws), phase := codeDft } := by
  obtain ⟨hl, hc, -⟩ := (readFirst_eq_ok_iff _ _ _ _ _).mp h
  have hw := (writeElems_eq_ok_iff s.caps .xw s.xw 0 (List.zipWith Config.num.mul xs ws) _).mpr
    ⟨by simp only [Arr.capacity, List.length_zipWith] at hc ⊢; omega, rfl⟩
  unfold execWindow
  rw [h, attempt_ok, h', attempt_ok, hw, attempt_ok]

theorem execDft_eq {s : State} {xs : List Value} (h : readFirst s.caps .xw s.xw s.n.toNat = .ok xs) :
    execDft s = .next { s with
      xre := s.xre.write 0 ((bins s.n.toNat xs).map Prod.fst)
      xim := s.xim.write 0 ((bins s.n.toNat xs).map Prod.snd)
      phase := codeMag } := by
  obtain ⟨hl, hc, -⟩ := (readFirst_eq_ok_iff _ _ _ _ _).mp h
  have hr := (writeElems_eq_ok_iff s.caps .xre s.xre 0 ((bins s.n.toNat xs).map Prod.fst) _).mpr
    ⟨by simp only [Arr.capacity, bins, List.length_map, List.length_range] at hc ⊢; omega, rfl⟩
  have hi := (writeElems_eq_ok_iff s.caps .xim s.xim 0 ((bins s.n.toNat xs).map Prod.snd) _).mpr
    ⟨by simp only [Arr.capacity, bins, List.length_map, List.length_range] at hc ⊢; omega, rfl⟩
  unfold execDft
  rw [h, attempt_ok, hr, attempt_ok, hi, attempt_ok]

theorem execMag_eq {s : State} {re im : List Value} (h : readFirst s.caps .xre s.xre s.h.toNat = .ok re)
    (h' : readFirst s.caps .xim s.xim s.h.toNat = .ok im) (hh : s.h.toNat ≤ s.caps.nmax / 2) :
    execMag s = .next { s with mag := s.mag.write 0 (List.zipWith Config.num.mag re im), phase := codeDb } := by
  obtain ⟨hl, -, -⟩ := (readFirst_eq_ok_iff _ _ _ _ _).mp h
  have hw := (writeElems_eq_ok_iff s.caps .mag s.mag 0 (List.zipWith Config.num.mag re im) _).mpr
    ⟨by simp only [Arr.capacity, List.length_zipWith]; omega, rfl⟩
  unfold execMag
  rw [h, attempt_ok, h', attempt_ok, hw, attempt_ok]

theorem execDb_eq {s : State} {ms : List Value} (h : readFirst s.caps .mag s.mag s.h.toNat = .ok ms) :
    execDb s = .next { s with dbv := s.dbv.write 0 (ms.map Config.num.db), phase := codeCrop } := by
  obtain ⟨hl, hc, -⟩ := (readFirst_eq_ok_iff _ _ _ _ _).mp h
  have hw := (writeElems_eq_ok_iff s.caps .dbv s.dbv 0 (ms.map Config.num.db) _).mpr
    ⟨by simp only [Arr.capacity, List.length_map] at hc ⊢; omega, rfl⟩
  unfold execDb
  rw [h, attempt_ok, hw, attempt_ok]

theorem execCrop_eq {s : State} {ds : List Value} (h : readFirst s.caps .dbv s.dbv s.k.toNat = .ok ds) :
    execCrop s = .next { s with row := s.row.write 0 ds, phase := codeUpdate } := by
  obtain ⟨hl, hc, -⟩ := (readFirst_eq_ok_iff _ _ _ _ _).mp h
  have hw := (writeElems_eq_ok_iff s.caps .row s.row 0 ds _).mpr
    ⟨by simp only [Arr.capacity] at hc ⊢; omega, rfl⟩
  unfold execCrop
  rw [h, attempt_ok, hw, attempt_ok]

theorem execUpdate_eq {s : State} {xs : List Value} (h : readFirst s.caps .row s.row s.k.toNat = .ok xs)
    (hp : s.wp.toNat < s.caps.depthMax) :
    execUpdate s = .next { s with
      wf := s.wf.write (wfCell s.wp.toNat 0) xs
      wp := nextWp s.wp s.depth
      phase := codeRender } := by
  obtain ⟨hl, hc, -⟩ := (readFirst_eq_ok_iff _ _ _ _ _).mp h
  have hw := (wfWriteRow_eq_ok_iff s s.wp.toNat xs _).mpr
    ⟨.inr ⟨hp, by simp only [Arr.capacity] at hc; omega⟩, rfl⟩
  unfold execUpdate
  rw [h, attempt_ok, hw, attempt_ok]

theorem execRender_eq {s : State} {matrix : List (List Value)} {axis : List Value} (h : snapshot s = .ok matrix)
    (h' : readFirst s.caps .spd s.spd s.k.toNat = .ok axis) :
    execRender s = .next (afterRender (sinkAnswer s)
      ((if s.renderOpen then s else s.emit (.render matrix axis (yExtent s.yext))).withEnv (afterSink s.env))) := by
  unfold execRender
  rw [h, attempt_ok, h', attempt_ok]

/-- `(WP + 1) mod DEPTH` is exact where R40 bounds the pointer. -/
theorem nextWp_toNat {wp : BitVec 16} {depth : BitVec 17} (h : wp.toNat < depth.toNat)
    (hd : depth.toNat ≤ 65536) : (nextWp wp depth).toNat = (wp.toNat + 1) % depth.toNat := by
  unfold nextWp
  rw [if_neg (fun hh => by rw [hh] at h; simp at h), BitVec.toNat_ofNat]
  have := Nat.mod_lt (wp.toNat + 1) (show depth.toNat > 0 by omega)
  exact Nat.mod_eq_of_lt (by omega)

/-! ### Fetching -/

/-- What a controller's turn fetches is what PHASE decodes to, while Running. -/
theorem controllerFetch_instr {s : State} {i : Instr} (h : controllerFetch s = .instr i) :
    s.cs = .running ∧ decodePhase s.phase = .ok i := by
  unfold controllerFetch at h
  split at h
  · cases h
  · rename_i hc
    split at h
    · simp only [Fetched.instr.injEq] at h; subst h; exact ⟨hc, ‹_›⟩
    · cases h
    · cases h

/-- The phase code of the operation PHASE decodes to (R74). -/
def phaseCode : Instr → Option (BitVec 4)
  | .poll => some codePoll
  | .push => some codePush
  | .drain => some codeDrain
  | .flush => some codeFlush
  | .decode => some codeDecode
  | .window => some codeWindow
  | .dft => some codeDft
  | .mag => some codeMag
  | .db => some codeDb
  | .crop => some codeCrop
  | .update => some codeUpdate
  | .render => some codeRender
  | .yield => some codeYield
  | .stop => some codeStop
  | _ => none

theorem decodePhase_ok {c : BitVec 4} {i : Instr} (h : decodePhase c = .ok i) : phaseCode i = some c := by
  have : ∀ c : BitVec 4, ∀ i, decodePhase c = .ok i → phaseCode i = some c := by
    intro c
    rcases c with ⟨⟨c, hc⟩⟩
    interval_cases c <;> intro i h <;> cases h <;> rfl
  exact this c i h

end Sys2Proof.Machine
end

