-- ==== Sys2Proof/Laws/PerInstr.lean ====
section
/-!
SUPPORT. Families of facts about each operation as syntax, one lemma per constructor.
-/

namespace Sys2Proof.Laws

/-- The row of the opcode table (30_encoding R80): its format's width in bits, its mask and its match. -/
def tableRow : Instr → Nat × Nat × Nat
  | .rdreg _ => (73, 0x1000000000000000000, 0x0)
  | .wrreg _ _ => (73, 0x1000000000000000000, 0x1000000000000000000)
  | .run => (64, 0xFFFFFFFFFFFFFFFF, 0x1)
  | .cancel => (64, 0xFFFFFFFFFFFFFFFF, 0x2)
  | .poll => (4, 0xf, 0x1)
  | .push => (4, 0xf, 0x2)
  | .drain => (4, 0xf, 0x3)
  | .flush => (4, 0xf, 0x4)
  | .decode => (4, 0xf, 0x5)
  | .window => (4, 0xf, 0x6)
  | .dft => (4, 0xf, 0x7)
  | .mag => (4, 0xf, 0x8)
  | .db => (4, 0xf, 0x9)
  | .crop => (4, 0xf, 0xa)
  | .update => (4, 0xf, 0xb)
  | .render => (4, 0xf, 0xc)
  | .yield => (4, 0xf, 0xd)
  | .stop => (4, 0xf, 0xe)

/-- The width and the value of an encoded operation. -/
def encodedBits : Encoded → Nat × Nat
  | .bus p => (73, p.toNat)
  | .cmd w => (64, w.toNat)
  | .phase c => (4, c.toNat)

/-- The encoding of `i` is a word of `i`'s row: of the row's width, and equal to the row's match under the row's
mask. -/
def EncodingFitsRow.Statement (i : Instr) : Prop :=
  (encodedBits (encode i)).1 = (tableRow i).1 ∧ (encodedBits (encode i)).2 &&& (tableRow i).2.1 = (tableRow i).2.2

/-- Bit 72 of a transaction is `we` (R71). -/
theorem busPattern_we (we : BitVec 1) (idx : BitVec 8) (wdata : Word) :
    (busPattern we idx wdata).toNat &&& 2 ^ 72 = we.toNat * 2 ^ 72 := by
  rw [Nat.and_two_pow]
  have h : (busPattern we idx wdata).toNat.testBit 72 = we.getLsbD 0 := by
    show (busPattern we idx wdata).getLsbD 72 = _
    unfold busPattern
    rw [BitVec.getLsbD_append, if_neg (by decide), BitVec.getLsbD_append, if_neg (by decide)]
  rw [h]
  congr 1
  clear h
  revert we
  decide

theorem EncodingFitsRow.rdreg (idx : BitVec 8) : EncodingFitsRow.Statement (.rdreg idx) :=
  ⟨rfl, (busPattern_we 0 idx 0).trans rfl⟩
theorem EncodingFitsRow.wrreg (idx : BitVec 8) (wdata : Word) : EncodingFitsRow.Statement (.wrreg idx wdata) :=
  ⟨rfl, (busPattern_we 1 idx wdata).trans rfl⟩
theorem EncodingFitsRow.run : EncodingFitsRow.Statement .run := ⟨rfl, rfl⟩
theorem EncodingFitsRow.cancel : EncodingFitsRow.Statement .cancel := ⟨rfl, rfl⟩
theorem EncodingFitsRow.poll : EncodingFitsRow.Statement .poll := ⟨rfl, rfl⟩
theorem EncodingFitsRow.push : EncodingFitsRow.Statement .push := ⟨rfl, rfl⟩
theorem EncodingFitsRow.drain : EncodingFitsRow.Statement .drain := ⟨rfl, rfl⟩
theorem EncodingFitsRow.flush : EncodingFitsRow.Statement .flush := ⟨rfl, rfl⟩
theorem EncodingFitsRow.decode : EncodingFitsRow.Statement .decode := ⟨rfl, rfl⟩
theorem EncodingFitsRow.window : EncodingFitsRow.Statement .window := ⟨rfl, rfl⟩
theorem EncodingFitsRow.dft : EncodingFitsRow.Statement .dft := ⟨rfl, rfl⟩
theorem EncodingFitsRow.mag : EncodingFitsRow.Statement .mag := ⟨rfl, rfl⟩
theorem EncodingFitsRow.db : EncodingFitsRow.Statement .db := ⟨rfl, rfl⟩
theorem EncodingFitsRow.crop : EncodingFitsRow.Statement .crop := ⟨rfl, rfl⟩
theorem EncodingFitsRow.update : EncodingFitsRow.Statement .update := ⟨rfl, rfl⟩
theorem EncodingFitsRow.render : EncodingFitsRow.Statement .render := ⟨rfl, rfl⟩
theorem EncodingFitsRow.yield : EncodingFitsRow.Statement .yield := ⟨rfl, rfl⟩
theorem EncodingFitsRow.stop : EncodingFitsRow.Statement .stop := ⟨rfl, rfl⟩

end Sys2Proof.Laws
end

