-- ==== Sys2Proof/Laws/Premises.lean ====
section
/-!
SUPPORT. What the stream's duties of 70_reset R229 give: the wire order, and codes in range in every frame.
-/

namespace Sys2Proof.Machine

/-- The high byte before the low byte is the big-endian sample word (R56, R75). -/
theorem sampleWord_pairOf (code : BitVec 16) :
    sampleWord (code.extractLsb' 8 8) (code.extractLsb' 0 8) = code := by
  apply BitVec.eq_of_toNat_eq
  have := code.isLt
  rw [sampleWord_toNat]
  simp only [BitVec.extractLsb'_toNat, Nat.shiftRight_eq_div_pow]
  omega

/-- A prefix of pairs in range is in range. -/
theorem pairsInRange_of_prefix {code : Nat → BitVec 16} (hc : CodesInRange code) (is : List Nat) :
    ∀ bs : List Byte, bs <+: is.flatMap (fun i => pairOf (code i)) → PairsInRange bs := by
  induction is with
  | nil => intro bs h; rw [List.flatMap_nil, List.prefix_nil] at h; rw [h]; trivial
  | cons i is ih =>
    intro bs h
    rw [List.flatMap_cons] at h
    match bs, h with
    | [], _ => trivial
    | [_], _ => trivial
    | a :: b :: bs, h =>
      simp only [pairOf, List.cons_append, List.nil_append, List.cons_prefix_cons] at h
      obtain ⟨rfl, rfl, h⟩ := h
      exact ⟨by rw [sampleWord_pairOf]; exact hc i, ih bs h⟩

/-- R229, R103: on a stream of high-byte-first pairs in `[0, 4095]` whatever the framer holds composes codes in range. -/
theorem framed_pairsInRange {code : Nat → BitVec 16} {s t : State} (hh : HighByteFirst code s) (hc : CodesInRange code)
    (h : Reached s t) : PairsInRange (framed t) := by
  obtain ⟨is, -, hp⟩ := hh t h
  exact pairsInRange_of_prefix hc is _ hp

/-- The positions on the wire of the samples `is`. -/
theorem pairOf_eq_map (code : Nat → BitVec 16) (is : List Nat) (hi : is.Pairwise (· < ·)) :
    ∃ ms : List Nat, ms.Pairwise (· < ·) ∧ (∀ m ∈ ms, m / 2 ∈ is)
      ∧ is.flatMap (fun i => pairOf (code i)) = ms.map (wireOf code) := by
  induction is with
  | nil => exact ⟨[], .nil, by simp, rfl⟩
  | cons i is ih =>
    obtain ⟨hlt, hi⟩ := List.pairwise_cons.mp hi
    obtain ⟨ms, h1, h2, h3⟩ := ih hi
    refine ⟨2 * i :: (2 * i + 1) :: ms, ?_, ?_, ?_⟩
    · have hm : ∀ m ∈ ms, 2 * i + 1 < m := fun m hm => by have := hlt _ (h2 m hm); omega
      refine .cons (fun m hm' => ?_) (.cons hm h1)
      rcases List.mem_cons.mp hm' with rfl | hm'
      · omega
      · have := hm m hm'; omega
    · intro m hm
      rcases List.mem_cons.mp hm with rfl | hm
      · exact List.mem_cons.mpr (.inl (by omega))
      rcases List.mem_cons.mp hm with rfl | hm
      · exact List.mem_cons.mpr (.inl (by omega))
      · exact List.mem_cons_of_mem _ (h2 m hm)
    · have e1 : wireOf code (2 * i) = (code i).extractLsb' 8 8 := by
        rw [wireOf, if_pos (by omega), show 2 * i / 2 = i by omega]
      have e2 : wireOf code (2 * i + 1) = (code i).extractLsb' 0 8 := by
        rw [wireOf, if_neg (by omega), show (2 * i + 1) / 2 = i by omega]
      rw [List.flatMap_cons, h3, List.map_cons, List.map_cons, e1, e2]
      rfl

/-- R229: high-byte-first pairs of the wire are bytes of the wire in wire order. -/
theorem wireOrder_of_highByteFirst {code : Nat → BitVec 16} {s : State} (hh : HighByteFirst code s) :
    WireOrder (wireOf code) s := by
  intro t h
  obtain ⟨is, hi, hp⟩ := hh t h
  obtain ⟨ms, h1, -, h3⟩ := pairOf_eq_map code is hi
  rw [h3] at hp
  refine ⟨ms.take (framed t).length, h1.sublist (List.take_sublist _ _), ?_⟩
  rw [List.map_take]
  exact List.prefix_iff_eq_take.mp hp

end Sys2Proof.Machine
end

