-- ==== Sys2Proof/Machine/Reference.lean ====
section
/-!
DEFINITION. The reference instantiation `num = REF` of 00_scope R10: machine values are the reals and every field is
its reference value. The machine does not run on it (its numerics are `Config.num`); it says what each field
approximates.
-/

namespace Sys2Proof

/-- `Ref_vdec(raw) = raw * VREF/4096 - VREF/2` (40_framer_decoder R101). -/
noncomputable def refVdec (raw : Nat) : ℝ := raw * (Config.vref : ℝ) / 4096 - (Config.vref : ℝ) / 2

/-- `Ref_hann(N, k) = 1/2 - (1/2)*cos(2*pi*k/(N-1))` (41_window_fft R111). -/
noncomputable def refHann (n k : Nat) : ℝ := 1 / 2 - 1 / 2 * Real.cos (2 * Real.pi * k / ((n : ℝ) - 1))

/-- `Ref_re[k] = sum_m xw[m]*cos(2*pi*k*m/N)` (41_window_fft R115). -/
noncomputable def refRe (n : Nat) (xw : List ℝ) (k : Nat) : ℝ :=
  (xw.zipIdx.map fun c => c.1 * Real.cos (2 * Real.pi * k * c.2 / n)).sum

/-- `Ref_im[k] = - sum_m xw[m]*sin(2*pi*k*m/N)` (41_window_fft R115). -/
noncomputable def refIm (n : Nat) (xw : List ℝ) (k : Nat) : ℝ :=
  -(xw.zipIdx.map fun c => c.1 * Real.sin (2 * Real.pi * k * c.2 / n)).sum

/-- `Ref_mag = sqrt(re^2 + im^2)` (41_window_fft R118). -/
noncomputable def refMag (re im : ℝ) : ℝ := Real.sqrt (re ^ 2 + im ^ 2)

/-- `Ref_db(m) = 20*log10(max(m, EPS))` (42_db_converter R131, with the `EPS` of R132). -/
noncomputable def refDb (m : ℝ) : ℝ := 20 * Real.logb 10 (max m (Config.eps : ℝ))

/-- `speed(k) = (k * sample_rate / N) * (C / FC)` (43_speed_mapper R144). -/
noncomputable def refSpeed (n fs k : Nat) : ℝ :=
  ((k : ℝ) * fs / n) * ((Config.lightSpeed : ℝ) / Config.carrier)

/-- `REF` (00_scope R10); `EPS` is the default of R132. -/
noncomputable def Numerics.reference : Numerics ℝ where
  real := id
  zero := 0
  vdec := fun raw => refVdec raw.toNat
  hann := refHann
  mul := fun a b => a * b
  dft := fun n xw k => (refRe n xw k, refIm n xw k)
  mag := refMag
  db := refDb
  speed := refSpeed
  ofparam := fun q => (q : ℝ)

end Sys2Proof
end

