-- ==== Sys2Proof/Laws/Reference.lean ====
section
/-!
SUPPORT. The reference instantiation has the properties of R9, and the fixed points the spec gives its formulas.
-/

namespace Sys2Proof

/-- R101: the fixed points of the sample formula. -/
theorem refVdec_points : refVdec 0 = -1.65 ∧ refVdec 2048 = 0 ∧ refVdec 4095 = 67551 / 40960 := by
  norm_num [refVdec, Config.vref]

/-- R111: the first coefficient is 0, and for `N = 2` so is the last. -/
theorem refHann_first (n : Nat) : refHann n 0 = 0 := by simp [refHann]

theorem refHann_two : refHann 2 1 = 0 := by
  have : (2 * Real.pi * ((1 : ℕ) : ℝ) / (((2 : ℕ) : ℝ) - 1)) = 2 * Real.pi := by push_cast; ring
  rw [refHann, this, Real.cos_two_pi]
  norm_num

/-- R111: every coefficient lies in `[0, 1]`. -/
theorem refHann_range (n k : Nat) : 0 ≤ refHann n k ∧ refHann n k ≤ 1 := by
  have h1 := Real.cos_le_one (2 * Real.pi * k / ((n : ℝ) - 1))
  have h2 := Real.neg_one_le_cos (2 * Real.pi * k / ((n : ℝ) - 1))
  unfold refHann
  constructor <;> linarith

/-- R132: the floor of `REF` is -200, and no magnitude converts to less. -/
theorem reference_dbFloor : Numerics.reference.dbFloor = -200 := Numerics.dbFloor_of_default _ rfl

theorem refDb_ge_floor (m : ℝ) : -200 ≤ refDb m := by
  have he : (0 : ℝ) < (Config.eps : ℝ) := by norm_num [Config.eps]
  rw [← reference_dbFloor]
  show 20 * Real.logb 10 (Config.eps : ℝ) ≤ 20 * Real.logb 10 (max m (Config.eps : ℝ))
  have := Real.logb_le_logb_of_le (b := 10) (by norm_num) he (le_max_right m _)
  linarith

theorem sum_zipIdx_zero (f : Nat → ℝ) (xs : List ℝ) (h : ∀ x ∈ xs, x = 0) (m : Nat) :
    ((xs.zipIdx m).map fun c => c.1 * f c.2).sum = 0 := by
  induction xs generalizing m with
  | nil => simp
  | cons x xs ih =>
    rw [List.zipIdx_cons, List.map_cons, List.sum_cons, ih (fun y hy => h y (List.mem_cons_of_mem _ hy)),
      h x List.mem_cons_self]
    simp

/-- R10: `REF` has NP1 to NP4 of R9. -/
theorem reference_lawful : Numerics.reference.Lawful where
  eps_pos := by norm_num [Numerics.reference, Config.eps]
  real_zero := rfl
  real_vdec_mid := refVdec_points.2.1
  real_mul_zero := fun a b h => by
    have h : a = 0 := h
    show a * b = 0
    rw [h, zero_mul]
  real_dft_zero := fun n xw k h => by
    have h : ∀ x ∈ xw, x = 0 := h
    exact ⟨sum_zipIdx_zero (fun m => Real.cos (2 * Real.pi * k * m / n)) xw h 0,
      neg_eq_zero.mpr (sum_zipIdx_zero (fun m => Real.sin (2 * Real.pi * k * m / n)) xw h 0)⟩
  real_mag_zero := fun re im h1 h2 => by
    have h1 : re = 0 := h1
    have h2 : im = 0 := h2
    show refMag re im = 0
    simp [refMag, h1, h2]
  real_mag_nonneg := fun re im => Real.sqrt_nonneg _
  real_db_floor := fun m h => by
    have h : m ≤ (Config.eps : ℝ) := h
    show refDb m = 20 * Real.logb 10 (Config.eps : ℝ)
    rw [refDb, max_eq_right h]
  vdec_range := fun raw h => by
    show -(165 / 100) ≤ refVdec raw.toNat ∧ refVdec raw.toNat < 165 / 100
    have h' : (raw.toNat : ℝ) ≤ 4095 := by exact_mod_cast h
    have h0 : (0 : ℝ) ≤ raw.toNat := Nat.cast_nonneg _
    have hv : ((Config.vref : ℚ) : ℝ) = 33 / 10 := by norm_num [Config.vref]
    unfold refVdec
    rw [hv]
    constructor <;> linarith

end Sys2Proof
end

