-- ==== Sys2Proof/Laws/Step.lean ====
section
/-!
SUPPORT. What a step can do, said once; the fields of a transaction; a run unfolded by one step.
-/

namespace Sys2Proof.Machine

/-- Everything a step that goes on can have done, by what the turn fetched. -/
theorem step_next {s t : State} (h : step s = .next t) :
    (∃ i, turnFetch (takeTurn s).1 (takeTurn s).2 = .instr i ∧ exec i (takeTurn s).2 = .next t)
      ∨ (turnFetch (takeTurn s).1 (takeTurn s).2 = .idle ∧ t = (takeTurn s).2)
      ∨ (turnFetch (takeTurn s).1 (takeTurn s).2 = .cancelReq ∧ t = requestCancel (takeTurn s).2)
      ∨ (turnFetch (takeTurn s).1 (takeTurn s).2 = .rst ∧ t = (takeTurn s).2.hardwareReset) := by
  unfold step fetch at h
  simp only at h
  cases hf : turnFetch (takeTurn s).1 (takeTurn s).2 with
  | instr i => rw [hf] at h; exact .inl ⟨i, rfl, h⟩
  | idle => rw [hf] at h; exact .inr (.inl ⟨rfl, (Host.Outcome.next.inj h).symm⟩)
  | cancelReq => rw [hf] at h; exact .inr (.inr (.inl ⟨rfl, (Host.Outcome.next.inj h).symm⟩))
  | rst => rw [hf] at h; exact .inr (.inr (.inr ⟨rfl, (Host.Outcome.next.inj h).symm⟩))
  | reservedPhase => rw [hf] at h; cases h

/-- A transaction is a read, a write that is no command, RUN or CANCEL (R80). -/
theorem decodeBus_cases (p : BitVec 73) :
    (∃ idx, decodeBus p = .rdreg idx)
      ∨ (∃ idx w, decodeBus p = .wrreg idx w ∧ (idx = 0 → w ≠ 1 ∧ w ≠ 2))
      ∨ decodeBus p = .run ∨ decodeBus p = .cancel := by
  unfold decodeBus
  split
  · exact .inl ⟨_, rfl⟩
  · split
    · rw [decodeCommand_eq]
      by_cases h1 : busData p = 1
      · rw [if_pos h1]; exact .inr (.inr (.inl rfl))
      · by_cases h2 : busData p = 2
        · rw [if_neg h1, if_pos h2]; exact .inr (.inr (.inr rfl))
        · rw [if_neg h1, if_neg h2]; exact .inr (.inl ⟨_, _, rfl, fun _ => ⟨h1, h2⟩⟩)
    · rename_i h; exact .inr (.inl ⟨_, _, rfl, fun h0 => absurd h0 h⟩)

/-- The fields of a transaction are the ones it was made of (R71). -/
theorem busPattern_fields (we : BitVec 1) (idx : BitVec 8) (w : Word) :
    busWe (busPattern we idx w) = we ∧ busIdx (busPattern we idx w) = idx ∧ busData (busPattern we idx w) = w := by
  unfold busWe busIdx busData busPattern
  have h := BitVec.toNat_append (we ++ idx) w
  have h' := BitVec.toNat_append we idx
  rw [← Nat.shiftLeft_add_eq_or_of_lt w.isLt, Nat.shiftLeft_eq] at h
  rw [← Nat.shiftLeft_add_eq_or_of_lt idx.isLt, Nat.shiftLeft_eq] at h'
  have h1 := we.isLt
  have h2 := idx.isLt
  have h3 := w.isLt
  refine ⟨?_, ?_, ?_⟩ <;>
    (apply BitVec.eq_of_toNat_eq
     simp only [BitVec.extractLsb'_toNat, Nat.shiftRight_eq_div_pow, h, h']
     omega)

/-- A run of one step more. -/
theorem run_succ {s t : State} {k : Nat} (h : step s = .next t) :
    Sys2Proof.core.run (k + 1) s = Sys2Proof.core.run k t := by
  have h' : Sys2Proof.core.step s = .next t := h
  simp [Host.Core.run, h']

end Sys2Proof.Machine
end

