-- ==== Sys2Proof/Tests/Slice0.lean ====
section
/-!
SUPPORT. The model's own tests: words of the spec decoded, vectors of 95_test_vectors, one or two small steps per
operation, and for each statement with hypotheses a state that meets them (`witness_<Name>`). Expected values are the
spec's, by the section named beside each.
-/

namespace Sys2Proof.Tests

open Sys2Proof.Machine

/-! ### WellFormed and the decoders (30_encoding R71 to R80) -/

theorem test_wf_refuses_run_spelled_as_write : ¬ WellFormed (.wrreg 0 1) := by decide
theorem test_wf_refuses_cancel_spelled_as_write : ¬ WellFormed (.wrreg 0 2) := by decide
theorem test_wf_admits_illegal_command_word : WellFormed (.wrreg 0 0x101) := by decide
theorem test_wf_admits_other_writes : WellFormed (.wrreg 2 1) ∧ WellFormed (.rdreg 0) ∧ WellFormed .stop := by decide

/-- R71: `we` is bit 72, `idx` bits 71:64, `wdata` bits 63:0. A read of STATUS. -/
theorem test_decode_rdreg : decodeTableWord 80 0x0010000000000000000 = some (.rdreg 0x01) := by decide
/-- R71: a read ignores `wdata`. -/
theorem test_decode_rdreg_ignores_wdata : decodeTableWord 80 0x0FF00000000DEADBEEF = some (.rdreg 0xFF) := by decide
/-- R71: a write of 0x10000 to CPI. -/
theorem test_decode_wrreg : decodeTableWord 80 0x1020000000000010000 = some (.wrreg 0x02 0x10000) := by decide
theorem test_decode_wrreg_top_bits : decodeTableWord 80 0x1FF8000000000000001
    = some (.wrreg 0xFF 0x8000000000000001) := by decide
/-- R79: an illegal command word stays a write to CMD. -/
theorem test_decode_wrreg_illegal_command : decodeTableWord 80 0x1000000000000000101 = some (.wrreg 0 0x101) := by decide
theorem test_decode_run : decodeTableWord 64 0x1 = some .run := by decide
theorem test_decode_run_as_transaction : decodeTableWord 80 0x1000000000000000001 = some .run := by decide
theorem test_decode_cancel : decodeTableWord 64 0x2 = some .cancel := by decide
theorem test_decode_cancel_as_transaction : decodeTableWord 80 0x1000000000000000002 = some .cancel := by decide
theorem test_decode_refuses_commands : decodeTableWord 64 0x0 = none ∧ decodeTableWord 64 0x3 = none
    ∧ decodeTableWord 64 0x101 = none ∧ decodeTableWord 64 0x8000000000000001 = none := by decide
/-- R74, the codes 0001 to 1110. -/
theorem test_decode_phases : decodeTableWord 8 0b0001 = some .poll ∧ decodeTableWord 8 0b0010 = some .push
    ∧ decodeTableWord 8 0b0011 = some .drain ∧ decodeTableWord 8 0b0100 = some .flush
    ∧ decodeTableWord 8 0b0101 = some .decode ∧ decodeTableWord 8 0b0110 = some .window
    ∧ decodeTableWord 8 0b0111 = some .dft ∧ decodeTableWord 8 0b1000 = some .mag
    ∧ decodeTableWord 8 0b1001 = some .db ∧ decodeTableWord 8 0b1010 = some .crop
    ∧ decodeTableWord 8 0b1011 = some .update ∧ decodeTableWord 8 0b1100 = some .render
    ∧ decodeTableWord 8 0b1101 = some .yield ∧ decodeTableWord 8 0b1110 = some .stop := by decide
theorem test_decode_refuses_phases : decodePhase 0 = .error .idlePhase ∧ decodePhase 15 = .error .reservedPhase := by
  constructor <;> rfl

/-! ### Vectors of 95_test_vectors -/

/-- Section 2.1: byte order of a sample. -/
theorem test_sample_words : sampleWord 0x01 0x23 = 291 ∧ sampleWord 0x08 0x00 = 2048 ∧ sampleWord 0x0F 0xFF = 4095
    ∧ sampleWord 0xFF 0xFF = 65535 := by decide

/-- Section 2.2, configuration T8. -/
theorem test_derive_T8 : derive 0x10000 0x40000 0x4000 8 = ⟨8, 4, 4, 3⟩ := by decide
/-- Section 2.2, odd N: `H = floor(9/2)`. -/
theorem test_derive_odd : derive 0x10000 0x40000 0x10000 9 = ⟨9, 4, 4, 4⟩ := by decide
/-- Section 2.2, the smallest window. -/
theorem test_derive_smallest : derive 0x8000 0x3C0000 0x1E0000 4 = ⟨2, 120, 1, 1⟩ := by decide
/-- Section 2.2: bin 30, whose speed equals `max_speed`, is retained; one unit less drops it. -/
theorem test_derive_boundary : retained 0x1E0000 299 2440 30 = true ∧ retained 0x1DFFFF 299 2440 30 = false := by decide
/-- Section 2.2, DEF: bin 122 is the last retained. -/
theorem test_derive_DEF : retained 0x1E0000 1000 2000 122 = true ∧ retained 0x1E0000 1000 2000 123 = false
    ∧ windowSize 0x8000 2000 = 1000 ∧ rowCount 0x3C0000 0x8000 = 120 := by decide
/-- Section 2.2, the rows with ConfigError, and the two admitted limits. -/
theorem test_config_verdicts :
    configBad ⟨4096, 1024⟩ 0 (derive 0 0x3C0000 0 2000) = true
    ∧ configBad ⟨4096, 1024⟩ 0x8000 ⟨windowSize 0x8000 0, 120, 0, 0⟩ = true
    ∧ configBad ⟨4096, 1024⟩ 0x8000 ⟨windowSize 0x8000 3, 120, 0, 0⟩ = true
    ∧ configBad ⟨4096, 1024⟩ 0x8000 ⟨1000, rowCount 0x4000 0x8000, 500, 1⟩ = true
    ∧ configBad ⟨4096, 1024⟩ 0x8000 ⟨windowSize 0x8000 8194, 120, 0, 0⟩ = true
    ∧ configBad ⟨4096, 1024⟩ 0x8000 ⟨1000, rowCount 0x2008000 0x8000, 500, 1⟩ = true
    ∧ configBad ⟨4096, 1024⟩ 0x100 ⟨7, rowCount 0x3C0000 0x100, 3, 1⟩ = true
    ∧ configBad ⟨4096, 1024⟩ 0x8000 ⟨windowSize 0x8000 8193, rowCount 0x2000000 0x8000, 2048, 123⟩ = false := by decide

/-- Section 2.8, the value words that are exact, and a word that is no number. -/
theorem test_binary64_words : binary64 0 = some 0 ∧ binary64 0xC069000000000000 = some (-200)
    ∧ binary64 0x3FE0000000000000 = some (1 / 2) ∧ binary64 0x3FF0000000000000 = some 1
    ∧ binary64 0x404E000000000000 = some 60 ∧ binary64 0x7FF0000000000000 = none := by decide +kernel

/-! ### Small states -/

/-- A configuration of N = 2, DEPTH = 2, H = 1, K = 1 (the parameters of T2 with `loop_duration = 2`). -/
def parameters (s : State) : State := { s with cpi := 0x10000, loopdur := 0x20000, maxspeed := 0x4000, fs := 2 }

/-- Stopped, as after reset, with those parameters and inputs. -/
def idle (e : Env) : State := (parameters State.reset).withEnv e

/-- Running at phase `p` with `c` bytes in the framer, every array written, `WP = 1`. -/
def live (p : BitVec 4) (c : BitVec 18) : State :=
  { parameters State.reset with
    cs := .running, phase := p, cnt := c, frlen := 4, n := 2, depth := 2, h := 1, k := 1, yext := 0x20000, wp := 1
    initDone := true, byte := 0x55
    fb := [(0, 0x0F), (1, 0xFF), (2, 0x08), (3, 0x01)]
    fr := [(0, 0x0F), (1, 0xFF), (2, 0x08), (3, 0x01)]
    smp := [(0, ⟨10⟩), (1, ⟨11⟩)], xw := [(0, ⟨12⟩), (1, ⟨13⟩)], xre := [(0, ⟨14⟩), (1, ⟨15⟩)]
    xim := [(0, ⟨16⟩), (1, ⟨17⟩)], mag := [(0, ⟨18⟩)], dbv := [(0, ⟨19⟩)], row := [(0, ⟨20⟩)]
    win := [(0, Config.num.hann 2 0), (1, Config.num.hann 2 1)], spd := [(0, ⟨21⟩)]
    wf := [(wfCell 0 0, ⟨30⟩), (wfCell 1 0, ⟨31⟩)] }

/-- The inputs `turns`, with every answer given. -/
def inputs (turns : List Turn) : Env := ⟨turns, [some 0xAA, none], [true], [.ok, .fail], 0⟩

theorem inv_withEnv {s : State} (h : Inv s) (e : Env) : Inv (s.withEnv e) := by
  obtain ⟨a1, a2, a3, a4, a5, a6, a7, a8, a9, b0, b1, b2, b3, b4, b5, b6, b7, b8, b9, c0, c1⟩ := h
  exact ⟨a1, a2, a3, a4, a5, a6, a7, a8, a9, b0, b1, b2, b3, b4, b5, b6, b7, b8, b9, c0, c1⟩

theorem window_table_live (p : BitVec 4) (c : BitVec 18) :
    ∀ i < (live p c).n.toNat, (live p c).win.get i = some (Config.num.hann (live p c).n.toNat i) := by
  intro i hi
  match i, hi with
  | 0, _ => rfl
  | 1, _ => rfl

theorem inv_live_poll : Inv (live codePoll 0) where
  caps_ok := by decide
  idle_iff_stopped := by decide
  phase_valid := by decide
  dims := by decide
  uninitialised := by decide
  running_initialised := by decide
  cnt_le := by decide
  full_iff_drain := by decide
  wp_lt := by decide
  frlen_even := by decide
  running_no_error := by decide
  err_codes := by decide
  pending_running := by decide
  waiting_in_render := by decide
  canonical := by decide
  framer_written := by decide
  frame_written := by decide
  window_table := window_table_live _ _
  axis_written := by decide
  waterfall_written := by decide
  working_written := by decide

theorem inv_live_of {p : BitVec 4} {c : BitVec 18} (h0 : p ≠ codeIdle) (h15 : p ≠ 15) (hc : c.toNat ≤ 4)
    (hd : c.toNat = 4 ↔ p = codeDrain) : Inv (live p c) :=
  { inv_live_poll with
    idle_iff_stopped := ⟨fun h => absurd h h0, fun h => by cases h⟩
    phase_valid := h15
    cnt_le := hc
    full_iff_drain := fun _ => hd
    wp_lt := fun _ => (show 1 < 2 by decide)
    dims := by intro _; show DimsOk (live codePoll 0); decide
    uninitialised := fun h => by cases h
    waiting_in_render := fun h => by cases h
    framer_written := fun i hi => (show (live codePoll 0).fb.writtenBelow 4 by decide) i (Nat.lt_of_lt_of_le hi hc)
    working_written := by
      refine ⟨fun _ => rfl, fun _ => ?_, fun _ => ?_, fun _ => ?_, fun _ => ?_, fun _ => ?_, fun _ => ?_⟩
      · exact show (live codePoll 0).smp.writtenBelow 2 by decide
      · exact show (live codePoll 0).xw.writtenBelow 2 by decide
      · exact show (live codePoll 0).xre.writtenBelow 1 ∧ (live codePoll 0).xim.writtenBelow 1 by decide
      · exact show (live codePoll 0).mag.writtenBelow 1 by decide
      · exact show (live codePoll 0).dbv.writtenBelow 1 by decide
      · exact show (live codePoll 0).row.writtenBelow 1 by decide }

/-! ### One small step per operation -/

/-- What `f` says of the next state, if there is one. -/
def after (r : Result) (f : State → Bool) : Bool :=
  match r with
  | .next t => f t
  | _ => false

/-- 2.7: the STATUS words of a run, by situation. -/
theorem test_status_words : statusWord State.reset = 0x0000 ∧ statusWord (live codePoll 0) = 0x0203
    ∧ statusWord (live codePush 1) = 0x0205 ∧ statusWord (live codeDrain 4) = 0x0227
    ∧ statusWord (live codeYield 1) = 0x021B := by decide

/-- 2.6, WF_DATA: row 3 of the state with `WP = 1`, `DEPTH = 4` is physical row 1. -/
theorem test_row_map : (List.range 4).map (phys 1 4) = [0, 3, 2, 1] := by decide

theorem test_rdreg_status : after (exec (.rdreg 0x01) (live codePoll 0)) (fun t => t.answers == [0x0203]) = true := by
  decide
/-- R44: logical row 0 is physical row 0 (`WP = 1`), row 2 is out of range. -/
theorem test_rdreg_wf_data : after (exec (.rdreg 0x0C) (live codePoll 0)) (fun t => t.answers == [30]) = true
    ∧ after (exec (.rdreg 0x0C) { live codePoll 0 with wfAddr := 0x20000 }) (fun t => t.answers == [0]) = true := by
  decide
/-- R186: the bits above the field are dropped. -/
theorem test_wrreg_drops_high_bits : after (exec (.wrreg 0x0D 0xABCD1234) State.reset) (fun t => t.axisAddr == 0x1234)
    = true := by decide
/-- 2.7: an illegal CMD word after reset; RUN while Running at POLL. -/
theorem test_wrreg_cmd : after (exec (.wrreg 0 0x101) State.reset) (fun t => statusWord t == 0x0100) = true
    ∧ after (exec (.wrreg 0 1) (live codePoll 0)) (fun t => statusWord t == 0x0303) = true := by decide
theorem test_run_accepted : after (exec .run (idle (inputs [])))
    (fun t => statusWord t == 0x0203 && t.n == 2 && t.depth == 2 && t.k == 1 && t.hist == [.openSource]) = true := by
  decide
/-- 2.7: ConfigError and SourceUnavailable on the first RUN since reset. -/
theorem test_run_refused :
    after (exec .run { idle (inputs []) with cpi := 0 }) (fun t => statusWord t == 0x4000 && t.hist == []) = true
    ∧ after (exec .run (idle ⟨[], [], [false], [], 0⟩)) (fun t => statusWord t == 0x1000 && t.hist == [.openSource])
      = true := by decide
theorem test_cancel : after (exec .cancel (live codeDft 1)) (fun t => statusWord t == 0x024F) = true
    ∧ after (exec .cancel State.reset) (fun t => statusWord t == 0) = true := by decide
theorem test_poll : after (exec .poll ((live codePoll 1).withEnv (inputs [])))
    (fun t => t.byte == 0xAA && t.phase == codePush && t.env.polls == [none]) = true := by decide
/-- 2.1: with a cancellation pending the byte stays with the source. -/
theorem test_poll_cancelled : after (exec .poll ((requestCancel (live codePoll 1)).withEnv (inputs [])))
    (fun t => t.phase == codeStop && t.env.polls == [some 0xAA, none]) = true := by decide
/-- 2.1, pushes 3 and 4 of T2. -/
theorem test_push : after (exec .push (live codePush 2)) (fun t => t.cnt == 3 && t.phase == codePoll) = true
    ∧ after (exec .push (live codePush 3)) (fun t => t.cnt == 4 && t.phase == codeDrain && t.fb.get 3 == some 0x55)
      = true := by decide
theorem test_push_full : after (exec .push (live codePush 4)) (fun t => t.cnt == 4 && t.fb == (live 0 0).fb) = true := by
  decide
theorem test_drain : after (exec .drain (live codeDrain 4))
    (fun t => t.cnt == 0 && t.frlen == 4 && t.fr == [(0, 0x0F), (1, 0xFF), (2, 0x08), (3, 0x01)]) = true := by decide
theorem test_flush : after (exec .flush (live codeFlush 0)) (fun t => t.hist == [.flush] && t.phase == codeDecode)
    = true := by decide
/-- 2.1: bytes `0F FF` are raw 4095, `08 01` raw 2049. -/
theorem test_decode : ∃ t, exec .decode (live codeDecode 0) = .next t
    ∧ t.smp = [(0, Config.num.vdec 4095), (1, Config.num.vdec 2049)] := ⟨_, rfl, rfl⟩
/-- 2.1 and 2.7: an odd length. -/
theorem test_decode_odd : after (exec .decode { live codeDecode 0 with frlen := 3 })
    (fun t => statusWord t == 0x2200 && t.hist == [.release] && t.smp == [(0, ⟨10⟩), (1, ⟨11⟩)]) = true := by decide
theorem test_window : ∃ t, exec .window (live codeWindow 0) = .next t
    ∧ t.xw = [(0, Config.num.mul ⟨10⟩ (Config.num.hann 2 0)), (1, Config.num.mul ⟨11⟩ (Config.num.hann 2 1))] :=
  ⟨_, rfl, rfl⟩
theorem test_dft : ∃ t, exec .dft (live codeDft 0) = .next t
    ∧ t.xim = [(0, (Config.num.dft 2 [⟨12⟩, ⟨13⟩] 0).2), (1, (Config.num.dft 2 [⟨12⟩, ⟨13⟩] 1).2)] := ⟨_, rfl, rfl⟩
theorem test_mag : ∃ t, exec .mag (live codeMag 0) = .next t ∧ t.mag = [(0, Config.num.mag ⟨14⟩ ⟨16⟩)] := ⟨_, rfl, rfl⟩
theorem test_db : ∃ t, exec .db (live codeDb 0) = .next t ∧ t.dbv = [(0, Config.num.db ⟨18⟩)] := ⟨_, rfl, rfl⟩
theorem test_crop : after (exec .crop (live codeCrop 0)) (fun t => t.row == [(0, ⟨19⟩)] && t.phase == codeUpdate) = true := by
  decide
/-- R159: physical row `WP = 1` is overwritten and the pointer wraps. -/
theorem test_update : after (exec .update (live codeUpdate 0))
    (fun t => t.wf == [(wfCell 0 0, ⟨30⟩), (wfCell 1 0, ⟨20⟩)] && t.wp == 0) = true := by decide
/-- R163: the snapshot in logical order, newest first. -/
theorem test_render : ∃ t, exec .render ((live codeRender 0).withEnv (inputs [])) = .next t
    ∧ t.hist = [.render [[⟨30⟩], [⟨31⟩]] [⟨21⟩] (Value.zero, Config.num.ofparam (uq 0x20000))] := ⟨_, rfl, rfl⟩
theorem test_render_fails : after (exec .render ((live codeRender 0).withEnv ⟨[], [], [], [.fail], 0⟩))
    (fun t => t.sinkFail && t.phase == codeYield) = true := by decide
theorem test_yield : after (exec .yield (live codeYield 0)) (fun t => t.phase == codePoll) = true
    ∧ after (exec .yield (requestCancel (live codeYield 0))) (fun t => statusWord t == 0x025D) = true := by decide
theorem test_stop : after (exec .stop (requestCancel (live codeStop 0)))
    (fun t => statusWord t == 0x0200 && t.hist == [.release]) = true := by decide
theorem test_reset_input : step (live codeDft 1 |>.withEnv (inputs [.rst])) = .next (State.reset.withEnv (inputs [])) :=
  rfl

/-! ### Witnesses: the hypotheses of each statement, met -/

theorem witness_DecodeEncodeRoundTrip : WellFormed (.rdreg 0xFF) ∧ WellFormed (.wrreg 0 3) ∧ WellFormed .run
    ∧ WellFormed .stop := by decide

theorem witness_HostTransactionRoundTrip :
    (WellFormed .run ∧ hostPattern .run = some (busPattern 1 0 1))
    ∧ (WellFormed (.wrreg 2 5) ∧ hostPattern (.wrreg 2 5) = some (busPattern 1 2 5)) := by decide

theorem witness_HostDecoderCases : (0x0F : BitVec 8) ≠ 0 ∧ (1 : Word).toNat = 1 ∧ (2 : Word).toNat = 2 := by decide

theorem witness_StepRunsHostTransaction :
    (idle (inputs [.bus (busPattern 1 2 5)])).env.turns = [.bus (busPattern 1 2 5)]
    ∧ decodeBus (busPattern 1 2 5) = .wrreg 2 5 := by decide

theorem witness_StepRunsPhaseOperation :
    (((live codePush 1).withEnv (inputs [.controller])).env.turns = [.controller]
      ∧ (live codePush 1).cs = .running ∧ decodePhase (live codePush 1).phase = .ok .push)
    ∧ ((idle (inputs [.controller])).env.turns = [.controller] ∧ (idle (inputs [.controller])).cs = .stopped) :=
  ⟨⟨rfl, rfl, rfl⟩, rfl, rfl⟩

theorem witness_ResetInputResetsTheBlock : ((live codeDft 1).withEnv (inputs [.rst])).env.turns = [.rst] := rfl

theorem witness_PlacedWordRunsNext :
    (tableFormat 80 0x1020000000000010000 = some (.bus (busPattern 1 2 0x10000))
      ∧ decode (.bus (busPattern 1 2 0x10000)) = .ok (.wrreg 2 0x10000))
    ∧ (tableFormat 64 1 = some (.cmd 1) ∧ decode (.cmd 1) = .ok .run)
    ∧ (tableFormat 8 11 = some (.phase 11) ∧ decode (.phase 11) = .ok .update) :=
  ⟨⟨rfl, rfl⟩, ⟨rfl, rfl⟩, rfl, rfl⟩

theorem witness_StepKeepsTheInvariant : Inv ((live codeUpdate 0).withEnv (inputs [.controller]))
    ∧ ∃ t, step ((live codeUpdate 0).withEnv (inputs [.controller])) = .next t :=
  ⟨inv_withEnv (inv_live_of (by decide) (by decide) (by decide) (by decide)) _, _, rfl⟩

theorem witness_LegalStatesNeverStop : Inv (live codeDrain 4) :=
  inv_live_of (by decide) (by decide) (by decide) (by decide)

/-- Each side of the conclusion: an edge, and the wait. -/
theorem witness_PhaseFollowsTheGraph :
    (Inv ((live codePush 1).withEnv (inputs [.controller])) ∧ (live codePush 1).cs = .running
      ∧ ∃ t, step ((live codePush 1).withEnv (inputs [.controller])) = .next t)
    ∧ (Inv ((live codeRender 0).withEnv ⟨[.controller], [], [], [.noAnswer], 0⟩)
      ∧ ∃ t, step ((live codeRender 0).withEnv ⟨[.controller], [], [], [.noAnswer], 0⟩) = .next t) :=
  ⟨⟨inv_withEnv (inv_live_of (by decide) (by decide) (by decide) (by decide)) _, rfl, _, rfl⟩,
    inv_withEnv (inv_live_of (by decide) (by decide) (by decide) (by decide)) _, _, rfl⟩

/-- Each of the three ways: a read, an accepted RUN, reset. -/
theorem witness_OnlyRunAndResetMovePhaseFromOutside :
    (Inv ((live codePush 1).withEnv (inputs [.bus 0])) ∧ ∃ t, step ((live codePush 1).withEnv (inputs [.bus 0])) = .next t)
    ∧ (Inv (State.reset.withEnv (inputs [.bus (busPattern 1 0 1)]))
      ∧ decodeBus (busPattern 1 0 1) = .run
      ∧ ∃ t, step (State.reset.withEnv (inputs [.bus (busPattern 1 0 1)])) = .next t)
    ∧ (Inv ((live codePush 1).withEnv (inputs [.rst])) ∧ ∃ t, step ((live codePush 1).withEnv (inputs [.rst])) = .next t) :=
  ⟨⟨inv_withEnv (inv_live_of (by decide) (by decide) (by decide) (by decide)) _, _, rfl⟩,
    ⟨inv_withEnv (by constructor <;> decide) _, rfl, _, rfl⟩,
    inv_withEnv (inv_live_of (by decide) (by decide) (by decide) (by decide)) _, _, rfl⟩

theorem witness_HistoryOnlyGrows : Turn.controller ≠ .rst
    ∧ ∃ t, step ((live codeFlush 0).withEnv (inputs [.controller])) = .next t := ⟨by decide, _, rfl⟩

/-- T2, and the bounds themselves: N = 2 with DEPTH = 1, and N = NMAX with DEPTH = DEPTH_MAX. -/
theorem witness_RunInitialisesTheBlock : ∀ s ∈ [idle (inputs []), { idle (inputs []) with loopdur := 0x10000 },
      { idle (inputs []) with cpi := 0x8000, fs := 8193, loopdur := 0x2000000 }],
    s.caps.Ok ∧ s.cs = .stopped ∧ s.cpi.toNat ≠ 0 ∧ 2 ≤ s.cpi.toNat * s.fs.toNat / 65536
      ∧ s.cpi.toNat * s.fs.toNat / 65536 ≤ s.caps.nmax ∧ 1 ≤ s.loopdur.toNat / s.cpi.toNat
      ∧ s.loopdur.toNat / s.cpi.toNat ≤ s.caps.depthMax ∧ openAnswer s = true := by decide

/-- Each of the five conditions, alone, at its boundary. -/
theorem witness_RunRefusesBadConfigurations :
    ({ State.reset with cpi := 0 }).cpi.toNat = 0
    ∧ State.reset.cpi.toNat * 3 / 65536 < 2
    ∧ State.reset.caps.nmax < State.reset.cpi.toNat * 8194 / 65536
    ∧ 0x7FFF / State.reset.cpi.toNat < 1
    ∧ State.reset.caps.depthMax < 0x2008000 / State.reset.cpi.toNat := by decide

theorem witness_RunReportsUnavailableSource : ∀ s ∈ [idle ⟨[], [], [false], [], 0⟩],
    s.cs = .stopped ∧ s.cpi.toNat ≠ 0 ∧ 2 ≤ s.cpi.toNat * s.fs.toNat / 65536
      ∧ s.cpi.toNat * s.fs.toNat / 65536 ≤ s.caps.nmax ∧ 1 ≤ s.loopdur.toNat / s.cpi.toNat
      ∧ s.loopdur.toNat / s.cpi.toNat ≤ s.caps.depthMax ∧ openAnswer s = false := by decide

theorem witness_RunWhileRunningOnlySetsBadcmd : (live codePoll 0).cs = .running := rfl

theorem witness_CancellationIsLatchedWhileRunning :
    ((live codeDft 1).withEnv (inputs [.cancelReq])).env.turns = [.cancelReq] := rfl

/-- The cancellation, even with a byte at hand, and the two answers. -/
theorem witness_PollSeesCancellationFirst :
    (requestCancel ((live codePoll 0).withEnv (inputs []))).cancelPend = true
    ∧ ((live codePoll 0).cancelPend = false ∧ pollAnswer ((live codePoll 0).withEnv ⟨[], [none], [], [], 0⟩) = none)
    ∧ pollAnswer ((live codePoll 0).withEnv (inputs [])) = some 0xAA := by decide

/-- The last push but one, and the last. -/
theorem witness_PushStoresAndCounts :
    ((live codePush 2).cnt.toNat < 2 * (live codePush 2).n.toNat
      ∧ (live codePush 2).cnt.toNat < 2 * (live codePush 2).caps.nmax)
    ∧ ((live codePush 3).cnt.toNat < 2 * (live codePush 3).n.toNat
      ∧ (live codePush 3).cnt.toNat < 2 * (live codePush 3).caps.nmax) := by decide

theorem witness_PushOnFullFramerStoresNothing : (live codePush 4).cnt.toNat = 2 * (live codePush 4).n.toNat := by decide

theorem witness_DrainHandsTheFrameOver : (live codeDrain 4).n.toNat ≤ (live codeDrain 4).caps.nmax
    ∧ (live codeDrain 4).fb.writtenBelow (2 * (live codeDrain 4).n.toNat) := by decide

theorem witness_DecodePairsHighByteFirst : (live codeDecode 0).frlen.toNat % 2 = 0
    ∧ (live codeDecode 0).frlen.toNat ≤ 2 * (live codeDecode 0).caps.nmax
    ∧ (live codeDecode 0).fr.writtenBelow (live codeDecode 0).frlen.toNat
    ∧ (live codeDecode 0).fr.get (2 * 1) = some 0x08 ∧ (live codeDecode 0).fr.get (2 * 1 + 1) = some 0x01 := by decide

theorem witness_DecodeTrapsOddLength : ({ live codeDecode 0 with frlen := 3 }).frlen.toNat % 2 = 1 := by decide

/-- Both ends of the range of codes: 0 and 4095. -/
theorem witness_DecodedVoltagesInRange : PairsInRange [0x00, 0x00, 0x0F, 0xFF] ∧
    Config.num.vdec 0 ∈ decodeSamples [0x00, 0x00, 0x0F, 0xFF] :=
  ⟨⟨by decide, by decide, trivial⟩, List.mem_cons_self⟩

theorem witness_WindowMultipliesElementwise : (live codeWindow 0).n.toNat ≤ (live codeWindow 0).caps.nmax
    ∧ (live codeWindow 0).smp.writtenBelow (live codeWindow 0).n.toNat
    ∧ (live codeWindow 0).win.writtenBelow (live codeWindow 0).n.toNat
    ∧ (live codeWindow 0).smp.get 1 = some ⟨11⟩ := by decide

theorem witness_DftStoresEveryBin : (live codeDft 0).n.toNat ≤ (live codeDft 0).caps.nmax
    ∧ ([⟨12⟩, ⟨13⟩] : List Value).length = (live codeDft 0).n.toNat
    ∧ ∀ i < (live codeDft 0).n.toNat, (live codeDft 0).xw.get i = ([⟨12⟩, ⟨13⟩] : List Value)[i]? := by decide

theorem witness_MagTakesOneSidedMagnitudes : (live codeMag 0).h.toNat ≤ (live codeMag 0).caps.nmax / 2
    ∧ (live codeMag 0).xre.writtenBelow (live codeMag 0).h.toNat
    ∧ (live codeMag 0).xim.writtenBelow (live codeMag 0).h.toNat ∧ (live codeMag 0).xre.get 0 = some ⟨14⟩ := by decide

theorem witness_DbConvertsEveryMagnitude : (live codeDb 0).h.toNat ≤ (live codeDb 0).caps.nmax / 2
    ∧ (live codeDb 0).mag.writtenBelow (live codeDb 0).h.toNat ∧ (live codeDb 0).mag.get 0 = some ⟨18⟩ := by decide

theorem witness_CropKeepsTheFirstK : (live codeCrop 0).k.toNat ≤ (live codeCrop 0).caps.nmax / 2
    ∧ (live codeCrop 0).dbv.writtenBelow (live codeCrop 0).k.toNat := by decide

theorem witness_TransformOfTheWholeWindow :
    ((live codeWindow 0).n.toNat ≤ (live codeWindow 0).caps.nmax
      ∧ (live codeWindow 0).h.toNat = (live codeWindow 0).n.toNat / 2
      ∧ (live codeWindow 0).k.toNat ≤ (live codeWindow 0).h.toNat
      ∧ ([⟨10⟩, ⟨11⟩] : List Value).length = (live codeWindow 0).n.toNat
      ∧ ∀ i < (live codeWindow 0).n.toNat, (live codeWindow 0).smp.get i = ([⟨10⟩, ⟨11⟩] : List Value)[i]?)
    ∧ ∀ i < (live codeWindow 0).n.toNat,
        (live codeWindow 0).win.get i = some (Config.num.hann (live codeWindow 0).n.toNat i) :=
  ⟨by decide, window_table_live _ _⟩

/-- Two samples of raw 2048, which denote 0 (NP3). -/
theorem witness_ZeroWindowGivesFloorRow :
    ∃ (s : State) (xs : List Value), s.n.toNat ≤ s.caps.nmax ∧ s.h.toNat = s.n.toNat / 2 ∧ s.k.toNat ≤ s.h.toNat
      ∧ xs.length = s.n.toNat ∧ (∀ i < s.n.toNat, s.smp.get i = xs[i]?) ∧ (∀ x ∈ xs, Config.num.real x = 0)
      ∧ s.win.writtenBelow s.n.toNat ∧ 0 < s.k.toNat := by
  refine ⟨{ live codeWindow 0 with smp := [(0, Config.num.vdec 2048), (1, Config.num.vdec 2048)] },
    [Config.num.vdec 2048, Config.num.vdec 2048], by decide, by decide, by decide, by decide, ?_, ?_,
    (show (live codeWindow 0).win.writtenBelow 2 by decide), by decide⟩
  · intro i hi
    match i, hi with
    | 0, _ => rfl
    | 1, _ => rfl
  · intro x hx
    simp only [List.mem_cons, List.not_mem_nil, or_false, or_self] at hx
    rw [hx]
    exact Config.hardware.lawful.real_vdec_mid

theorem witness_RetainedCountClosedForm : 2 ≤ 2 ∧ 1 ≤ 1 := by decide

theorem witness_RetainedBinsAreTheSlowPrefix : 1 ≤ 1000 := by decide

theorem witness_RowMapIsABijection : 0 < 1 ∧ 3 < 4 := by decide

theorem witness_UpdateAgesEveryLogicalRow : (live codeUpdate 0).caps.Ok ∧ 1 ≤ (live codeUpdate 0).depth.toNat
    ∧ (live codeUpdate 0).depth.toNat ≤ (live codeUpdate 0).caps.depthMax
    ∧ (live codeUpdate 0).wp.toNat < (live codeUpdate 0).depth.toNat
    ∧ (live codeUpdate 0).k.toNat ≤ (live codeUpdate 0).caps.nmax / 2
    ∧ (live codeUpdate 0).row.writtenBelow (live codeUpdate 0).k.toNat := by decide

/-- A cleared buffer of two rows, and three updates: one evicts. -/
theorem witness_WaterfallIsAFifo : ∀ s ∈ [{ live codeUpdate 0 with
      wp := 0, wf := [(wfCell 0 0, Value.zero), (wfCell 1 0, Value.zero)] }],
    s.caps.Ok ∧ 1 ≤ s.depth.toNat ∧ s.depth.toNat ≤ s.caps.depthMax ∧ s.k.toNat ≤ s.caps.nmax / 2 ∧ s.wp = 0
      ∧ (∀ i < s.depth.toNat, logicalRow s i = zeroRow s)
      ∧ ∀ r ∈ ([[⟨1⟩], [⟨2⟩], [⟨3⟩]] : List (List Value)), r.length = s.k.toNat := by decide

/-- Both answers, with the transaction to be emitted and after a wait. -/
theorem witness_RenderEmitsTheSnapshot : ∀ s ∈ [(live codeRender 0).withEnv (inputs []),
      (live codeRender 0).withEnv ⟨[], [], [], [.fail], 0⟩,
      { (live codeRender 0).withEnv (inputs []) with renderOpen := true },
      { (live codeRender 0).withEnv ⟨[], [], [], [.fail], 0⟩ with renderOpen := true }],
    1 ≤ s.depth.toNat ∧ s.depth.toNat ≤ s.caps.depthMax ∧ s.k.toNat ≤ s.caps.nmax / 2 ∧ WaterfallWritten s
      ∧ s.spd.writtenBelow s.k.toNat ∧ sinkAnswer s ≠ .noAnswer := by decide

/-- Before the transaction is emitted, and while it waits. -/
theorem witness_RenderWaitsForTheSink : ∀ s ∈ [(live codeRender 0).withEnv ⟨[], [], [], [.noAnswer], 0⟩,
      { (live codeRender 0).withEnv ⟨[], [], [], [.noAnswer], 0⟩ with renderOpen := true }],
    1 ≤ s.depth.toNat ∧ s.depth.toNat ≤ s.caps.depthMax ∧ s.k.toNat ≤ s.caps.nmax / 2 ∧ WaterfallWritten s
      ∧ s.spd.writtenBelow s.k.toNat ∧ sinkAnswer s = .noAnswer := by decide

theorem witness_RenderWordsInOrder : ([⟨5⟩] : List Value).length = 1
    ∧ ∀ r ∈ ([[⟨6⟩], [⟨7⟩]] : List (List Value)), r.length = 1 := by decide

theorem witness_CancellationIsInvisibleElsewhere :
    (Instr.push ∈ [Instr.push, .drain, .flush, .window, .dft, .mag, .db, .crop, .update, .render]
      ∧ ∃ t, exec .push (live codePush 1) = .next t)
    ∧ ((live codeDecode 0).frlen.toNat % 2 = 0 ∧ ∃ t, exec .decode (live codeDecode 0) = .next t) :=
  ⟨⟨by decide, _, rfl⟩, by decide, _, rfl⟩

/-- What R188 excludes, each in a pair of states: two bytes, `ok` against `fail`, and two windows. -/
theorem witness_DataNeverMovesTheController :
    (∃ t t' : State, Inv ((live codePoll 0).withEnv ⟨[.controller], [some 1], [], [], 0⟩)
      ∧ Inv ((live codePoll 0).withEnv ⟨[.controller], [some 2], [], [], 0⟩)
      ∧ SameCourse ((live codePoll 0).withEnv ⟨[.controller], [some 1], [], [], 0⟩)
        ((live codePoll 0).withEnv ⟨[.controller], [some 2], [], [], 0⟩)
      ∧ step ((live codePoll 0).withEnv ⟨[.controller], [some 1], [], [], 0⟩) = .next t
      ∧ step ((live codePoll 0).withEnv ⟨[.controller], [some 2], [], [], 0⟩) = .next t')
    ∧ (∃ t t' : State, Inv ((live codeRender 0).withEnv ⟨[.controller], [], [], [.ok], 0⟩)
      ∧ Inv ((live codeRender 0).withEnv ⟨[.controller], [], [], [.fail], 0⟩)
      ∧ SameCourse ((live codeRender 0).withEnv ⟨[.controller], [], [], [.ok], 0⟩)
        ((live codeRender 0).withEnv ⟨[.controller], [], [], [.fail], 0⟩)
      ∧ step ((live codeRender 0).withEnv ⟨[.controller], [], [], [.ok], 0⟩) = .next t
      ∧ step ((live codeRender 0).withEnv ⟨[.controller], [], [], [.fail], 0⟩) = .next t')
    ∧ ∃ s s' t t' : State, Inv s ∧ Inv s' ∧ s.env.turns = [.controller] ∧ SameCourse s s' ∧ s'.smp ≠ s.smp
      ∧ step s = .next t ∧ step s' = .next t' := by
  refine ⟨⟨_, _, inv_withEnv inv_live_poll _, inv_withEnv inv_live_poll _,
      ⟨⟨rfl, rfl, rfl, .nil, rfl⟩, rfl, rfl, rfl, rfl, rfl, rfl⟩, rfl, rfl⟩,
    ⟨_, _, inv_withEnv (inv_live_of (by decide) (by decide) (by decide) (by decide)) _,
      inv_withEnv (inv_live_of (by decide) (by decide) (by decide) (by decide)) _,
      ⟨⟨rfl, rfl, rfl, .cons (iff_of_false nofun nofun) .nil, rfl⟩, rfl, rfl, rfl, rfl, rfl, rfl⟩, rfl, rfl⟩, ?_⟩
  have h : Inv ((live codeWindow 0).withEnv ⟨[.controller], [], [], [], 0⟩) :=
    inv_withEnv (inv_live_of (by decide) (by decide) (by decide) (by decide)) _
  refine ⟨(live codeWindow 0).withEnv ⟨[.controller], [], [], [], 0⟩,
    { (live codeWindow 0).withEnv ⟨[.controller], [], [], [], 0⟩ with smp := [(0, ⟨77⟩), (1, ⟨78⟩)] }, _, _, h,
    { h with canonical := by decide, working_written := ?_ }, rfl,
    ⟨⟨rfl, rfl, rfl, .nil, rfl⟩, rfl, rfl, rfl, rfl, rfl, rfl⟩, by decide, rfl, rfl⟩
  obtain ⟨h1, h2, h3⟩ := h.working_written
  exact ⟨h1, fun _ => by decide, h3⟩

theorem witness_FramerAssemblesOneFrame :
    Inv ((live codePoll 0).withEnv ⟨List.replicate 8 .controller, [some 1, some 2, some 3, some 4], [], [], 0⟩)
    ∧ ∀ s ∈ [(live codePoll 0).withEnv
        ⟨List.replicate 8 .controller, [some 1, some 2, some 3, some 4], [], [], 0⟩],
      s.cs = .running ∧ s.phase = codePoll ∧ s.cnt = 0 ∧ s.cancelPend = false
        ∧ ([1, 2, 3, 4] : List Byte).length = 2 * s.n.toNat
        ∧ s.env.turns = List.replicate (4 * s.n.toNat) .controller ++ []
        ∧ s.env.polls = ([1, 2, 3, 4] : List Byte).map some ++ [] :=
  ⟨inv_withEnv inv_live_poll _, by decide⟩

theorem witness_FrameSequenceRunsToItsEnd :
    Inv ((live codeDrain 4).withEnv ⟨List.replicate 11 .controller, [], [], [.ok], 0⟩)
    ∧ ∀ s ∈ [(live codeDrain 4).withEnv ⟨List.replicate 11 .controller, [], [], [.ok], 0⟩],
        s.cs = .running ∧ s.phase = codeDrain ∧ ([0x0F, 0xFF, 0x08, 0x01] : List Byte).length = 2 * s.n.toNat
          ∧ (∀ i < 2 * s.n.toNat, s.fb.get i = ([0x0F, 0xFF, 0x08, 0x01] : List Byte)[i]?)
          ∧ s.env.turns = List.replicate 11 .controller ++ [] ∧ s.env.sinks = [.ok] ∧ SinkAnswer.ok ≠ .noAnswer :=
  ⟨inv_withEnv (inv_live_of (by decide) (by decide) (by decide) (by decide)) _, by decide⟩

/-- A turn that is UPDATE's and one that is not. -/
theorem witness_LatchedConfigurationIsFixed :
    (Inv ((live codeUpdate 0).withEnv (inputs [.controller])) ∧ Turn.controller ≠ .rst
      ∧ ∃ t, step ((live codeUpdate 0).withEnv (inputs [.controller])) = .next t
          ∧ ¬ ((live codeUpdate 0).cs = .stopped ∧ t.cs = .running))
    ∧ ((live codePush 1).phase ≠ codeUpdate
      ∧ ∃ t, step ((live codePush 1).withEnv (inputs [.controller])) = .next t
          ∧ ¬ ((live codePush 1).cs = .stopped ∧ t.cs = .running)) :=
  ⟨⟨inv_withEnv (inv_live_of (by decide) (by decide) (by decide) (by decide)) _, by decide, _, rfl, by decide⟩,
    by decide, _, rfl, by decide⟩

theorem witness_OnlyWritesChangeParameters : (∀ idx w, Instr.flush ≠ .wrreg idx w)
    ∧ ∃ t, exec .flush (live codeFlush 0) = .next t := ⟨fun _ _ => nofun, _, rfl⟩

/-- In range at the last row and column, and just beyond each. -/
theorem witness_WaterfallWindowReads :
    (({ live codePoll 0 with wfAddr := 0x10000 }).wfAddr.toNat = 65536 * 1 + 0
      ∧ 1 < (live codePoll 0).depth.toNat ∧ 0 < (live codePoll 0).k.toNat
      ∧ (live codePoll 0).depth.toNat ≤ (live codePoll 0).caps.depthMax
      ∧ (live codePoll 0).k.toNat ≤ (live codePoll 0).caps.nmax / 2
      ∧ (logicalRow { live codePoll 0 with wfAddr := 0x10000 } 1)[0]? = some (some ⟨31⟩))
    ∧ (({ live codePoll 0 with wfAddr := 0x20000 }).wfAddr.toNat = 65536 * 2 + 0
      ∧ ¬ (2 < (live codePoll 0).depth.toNat ∧ 0 < (live codePoll 0).k.toNat))
    ∧ (({ live codePoll 0 with wfAddr := 0x10001 }).wfAddr.toNat = 65536 * 1 + 1
      ∧ ¬ (1 < (live codePoll 0).depth.toNat ∧ 1 < (live codePoll 0).k.toNat)) := by decide

theorem witness_AxisWindowReads :
    (live codePoll 0).k.toNat ≤ ({ live codePoll 0 with axisAddr := 1 }).axisAddr.toNat
    ∧ ((live codePoll 0).axisAddr.toNat < (live codePoll 0).k.toNat
      ∧ (live codePoll 0).k.toNat ≤ (live codePoll 0).caps.nmax / 2
      ∧ (live codePoll 0).spd.get (live codePoll 0).axisAddr.toNat = some ⟨21⟩) := by decide

theorem witness_WritesToReadOnlyRegistersAreIgnored :
    (0x01 : BitVec 8) ∈ [(0x01 : BitVec 8), 0x06, 0x07, 0x08, 0x09, 0x0A, 0x0C, 0x0E] := by decide

theorem witness_ReservedIndicesAreInert : 0x0F ≤ (0x0F : BitVec 8).toNat ∧ 0x0F ≤ (0xFF : BitVec 8).toNat := by decide

/-- `w = 0` and `w = 3`, the words beside the two commands. -/
theorem witness_CommandWordsCommand : (1 : Word).toNat = 1 ∧ (2 : Word).toNat = 2
    ∧ ((0 : Word).toNat ≠ 1 ∧ (0 : Word).toNat ≠ 2) ∧ ((3 : Word).toNat ≠ 1 ∧ (3 : Word).toNat ≠ 2) := by decide

end Sys2Proof.Tests
end

section
/-!
The control port's reads and writes by the register an index names, and the reserved indices (10_state R28, R47).
-/

namespace Sys2Proof.Machine

/-- R47's reserved indices are exactly those the map of R28 gives no register. -/
theorem regName_eq_reserved_iff (idx : BitVec 8) : regName idx = .reserved ↔ 0x0F ≤ idx.toNat := by
  unfold regName
  split
  case h_16 => -- no index below 0x0F
    simp only [imp_false, true_iff] at *
    omega
  all_goals -- one of the fifteen registers
    simp only [reduceCtorEq, false_iff]
    omega

/-- A register that has a value is read by answering it (R185). -/
theorem exec_rdreg_of_readReg {s : State} {idx : BitVec 8} {w : Word} (h : readReg s (regName idx) = .ok w) :
    exec (.rdreg idx) s = .next (s.answer w) := by
  change attempt (readReg s (regName idx)) (fun w => .next (s.answer w)) = _
  rw [h, attempt_ok]

/-- A write stores what the register it names takes (R186). -/
theorem exec_wrreg (s : State) (idx : BitVec 8) (w : Word) :
    exec (.wrreg idx w) s = .next (writeReg s (regName idx) w) := rfl

@[simp] theorem readReg_reserved (s : State) : readReg s .reserved = .ok 0 := rfl

@[simp] theorem writeReg_reserved (s : State) (w : Word) : writeReg s .reserved w = s := rfl

/-- Settles O59: an index from 0x0F up names no register, so a read answers 0 and a write leaves the state. -/
theorem reservedIndicesAreInert : Obligations.ReservedIndicesAreInert := by
  intro s idx w hidx
  have hreg : regName idx = .reserved := (regName_eq_reserved_iff idx).mpr hidx
  constructor
  · exact exec_rdreg_of_readReg (by rw [hreg, readReg_reserved])
  · rw [exec_wrreg, hreg, writeReg_reserved]

end Sys2Proof.Machine
end

section
/-!
The decoders against the encoder (30_encoding R70 to R80): what the host-side decoder makes of a transaction given by
its fields, and the round trips.
-/

namespace Sys2Proof

open Machine

/-- With `we = 0` a transaction is a read, whatever its `wdata` (R71). -/
theorem decodeBus_busPattern_read (idx : BitVec 8) (w : Word) : decodeBus (busPattern 0 idx w) = .rdreg idx := by
  obtain ⟨hwe, hidx, -⟩ := busPattern_fields 0 idx w
  rw [decodeBus, if_pos hwe, hidx]

/-- With `we = 1` and `idx` not CMD's a transaction is a write (R80). -/
theorem decodeBus_busPattern_write {idx : BitVec 8} (h : idx ≠ 0) (w : Word) :
    decodeBus (busPattern 1 idx w) = .wrreg idx w := by
  obtain ⟨hwe, hidx, hdata⟩ := busPattern_fields 1 idx w
  rw [decodeBus, if_neg (by rw [hwe]; decide), if_neg (by rwa [hidx]), hidx, hdata]

/-- With `we = 1` and CMD's index a transaction is a command, or a write to CMD where the word is no command (R80). -/
theorem decodeBus_busPattern_cmd (w : Word) :
    decodeBus (busPattern 1 0 w) = if w = 1 then .run else if w = 2 then .cancel else .wrreg 0 w := by
  obtain ⟨hwe, hidx, hdata⟩ := busPattern_fields 1 0 w
  rw [decodeBus, if_neg (by rw [hwe]; decide), if_pos hidx, hdata, decodeCommand_eq]
  by_cases h1 : w = 1
  · simp [h1]
  by_cases h2 : w = 2
  · simp [h2]
  · rw [if_neg h1, if_neg h2, if_neg h1, if_neg h2]

/-- A write is well formed unless it puts a command's word into CMD. -/
theorem wellFormed_wrreg_iff (idx : BitVec 8) (w : Word) :
    WellFormed (.wrreg idx w) ↔ (idx = 0 → w ≠ 1 ∧ w ≠ 2) := by
  simp [WellFormed, Instr.wellFormed, imp_iff_not_or]

/-- A well-formed write is read back as itself, an illegal command word included (R80, R186). -/
theorem decodeBus_busPattern_wrreg {idx : BitVec 8} {w : Word} (h : WellFormed (.wrreg idx w)) :
    decodeBus (busPattern 1 idx w) = .wrreg idx w := by
  by_cases hidx : idx = 0
  · obtain ⟨h1, h2⟩ := (wellFormed_wrreg_iff idx w).mp h hidx
    rw [hidx, decodeBus_busPattern_cmd, if_neg h1, if_neg h2]
  · exact decodeBus_busPattern_write hidx w

/-- Settles O1: a read or write through the fields of its transaction, any other operation by its own code. -/
theorem decodeEncodeRoundTrip : Obligations.DecodeEncodeRoundTrip := by
  intro i hi
  cases i with
  | rdreg idx => exact congrArg Except.ok (decodeBus_busPattern_read idx 0)
  | wrreg idx w => exact congrArg Except.ok (decodeBus_busPattern_wrreg hi)
  | run => exact decodeCommand_run
  | cancel => exact decodeCommand_cancel
  | _ => rfl

/-- Settles O2: the host issues reads, writes and the two commands, each read back from its fields. -/
theorem hostTransactionRoundTrip : Obligations.HostTransactionRoundTrip := by
  intro i p hi hp
  cases i with
  | rdreg idx => cases hp; exact decodeBus_busPattern_read idx 0
  | wrreg idx w => cases hp; exact decodeBus_busPattern_wrreg hi
  | run => cases hp; exact decodeBus_busPattern_cmd 1
  | cancel => cases hp; exact decodeBus_busPattern_cmd 2
  | _ => cases hp

/-- Settles O3: the three branches of the host-side decoder. -/
theorem hostDecoderCases : Obligations.HostDecoderCases := by
  intro idx w
  refine ⟨decodeBus_busPattern_read idx w, fun hidx => decodeBus_busPattern_write hidx w, ?_⟩
  simpa [BitVec.toNat_eq] using decodeBus_busPattern_cmd w

/-- Settles O4: the sixteen codes evaluated. -/
theorem phaseCodesDecode : Obligations.PhaseCodesDecode := rfl

/-- Settles O5: the eight words evaluated, each in the format its length gives. -/
theorem specWordsDecode : Obligations.SpecWordsDecode := by
  unfold Obligations.SpecWordsDecode
  decide

end Sys2Proof
end

section
/-!
The invariant `Inv` (10_state R49) along the steps: what each agent's turn keeps, and so what every step keeps.
-/

namespace Sys2Proof.Machine

variable {α : Type}

/-! ### Arrays -/

theorem Memory.writtenBelow_zero (m : Memory α) : m.writtenBelow 0 := fun _ hi => absurd hi (Nat.not_lt_zero _)

/-- One element more at the end of the part that is written. -/
theorem Memory.writtenBelow_succ {m : Memory α} {n : Nat} (h : m.writtenBelow n) (x : α) :
    (m.write n [x]).writtenBelow (n + 1) := by
  intro i hi
  rw [Memory.get_write]
  by_cases hin : i < n
  · rw [if_neg (by omega)]
    exact h i hin
  · have : i = n := by omega
    subst this
    simp

/-! ### The operands of the phase held -/

/-- What the operation PHASE names reads, written by the operation before it: `FrameWritten` with the phase given. -/
def OperandsWritten (s : State) (p : BitVec 4) : Prop :=
  match p.toNat with
  | 4 | 5 => s.frlen.toNat = 2 * s.n.toNat
  | 6 => s.smp.writtenBelow s.n.toNat
  | 7 => s.xw.writtenBelow s.n.toNat
  | 8 => s.xre.writtenBelow s.h.toNat ∧ s.xim.writtenBelow s.h.toNat
  | 9 => s.mag.writtenBelow s.h.toNat
  | 10 => s.dbv.writtenBelow s.h.toNat
  | 11 => s.row.writtenBelow s.k.toNat
  | _ => True

/-- `FrameWritten` asks for the operands of the phase held and for nothing else. -/
theorem frameWritten_iff (s : State) : FrameWritten s ↔ OperandsWritten s s.phase := by
  generalize hp : s.phase = p
  unfold FrameWritten OperandsWritten
  rw [hp]
  rcases p with ⟨⟨p, hlt⟩⟩
  interval_cases p <;>
    simp [codeFlush, codeDecode, codeWindow, codeDft, codeMag, codeDb, codeCrop, codeUpdate]

/-! ### Positions of the controller -/

/-- The phases in which the controller is Running and the framer not full. -/
abbrev PlainPhase (p : BitVec 4) : Prop := p ≠ codeIdle ∧ p ≠ codeDrain ∧ p ≠ 15

/-- `t` is `s` but for the contents of the working arrays and the phase. -/
def SameButWorking (s t : State) : Prop :=
  t = { s with
        smp := t.smp, xw := t.xw, xre := t.xre, xim := t.xim, mag := t.mag, dbv := t.dbv, row := t.row
        phase := t.phase }

/-! ### The latched configuration -/

/-- `K` lies between 1 and `H` for an admissible window (R143). -/
theorem derive_k_bounds {cpi loopdur maxspeed fs : BitVec 32} (hn : 2 ≤ (derive cpi loopdur maxspeed fs).n) :
    1 ≤ (derive cpi loopdur maxspeed fs).k
      ∧ (derive cpi loopdur maxspeed fs).k ≤ (derive cpi loopdur maxspeed fs).n / 2 :=
  ⟨retainedCount_pos _ _ _ _ (Nat.div_pos hn two_pos), retainedCount_le _ _ _ _⟩

/-- The latched registers hold the candidates of DERIVE: `initialise_dims` in the candidates' names. -/
theorem initialise_latches {c : Caps} (hc : c.Ok) {cpi loopdur maxspeed fs : BitVec 32}
    (hb : configBad c cpi (derive cpi loopdur maxspeed fs) = false) (s : State) :
    (initialise (derive cpi loopdur maxspeed fs) s).n.toNat = (derive cpi loopdur maxspeed fs).n
      ∧ (initialise (derive cpi loopdur maxspeed fs) s).depth.toNat = (derive cpi loopdur maxspeed fs).depth
      ∧ (initialise (derive cpi loopdur maxspeed fs) s).h.toNat = (derive cpi loopdur maxspeed fs).n / 2
      ∧ (initialise (derive cpi loopdur maxspeed fs) s).k.toNat = (derive cpi loopdur maxspeed fs).k :=
  initialise_dims hc hb s

/-! ### What the clauses of the invariant give -/

namespace Inv

variable {s t : State}

/-- I1: outside IDLE the controller is Running. -/
theorem running (hi : Inv s) {p : BitVec 4} (hp : s.phase = p) (hne : p ≠ codeIdle := by decide) :
    s.cs = .running := by
  cases hcs : s.cs with
  | running => rfl
  | stopped => exact absurd (hp.symm.trans (hi.idle_iff_stopped.mpr hcs)) hne

/-- Outside IDLE a RUN has initialised the block. -/
theorem initialised (hi : Inv s) {p : BitVec 4} (hp : s.phase = p) (hne : p ≠ codeIdle := by decide) :
    s.initDone = true :=
  hi.running_initialised (hi.running hp hne)

/-- I3: outside DRAIN the framer of an initialised machine is not full. -/
theorem cnt_ne (hi : Inv s) (hinit : s.initDone = true) {p : BitVec 4} (hp : s.phase = p)
    (hne : p ≠ codeDrain := by decide) : s.cnt.toNat ≠ 2 * s.n.toNat :=
  fun hfull => hne (hp.symm.trans ((hi.full_iff_drain hinit).mp hfull))

/-- I3: outside DRAIN there is room for a byte. -/
theorem cnt_lt (hi : Inv s) (hinit : s.initDone = true) {p : BitVec 4} (hp : s.phase = p)
    (hne : p ≠ codeDrain := by decide) : s.cnt.toNat < 2 * s.n.toNat :=
  lt_of_le_of_ne hi.cnt_le (hi.cnt_ne hinit hp hne)

/-- `2*N` fits the 18 bits of CNT and of FRLEN (R39, R25). -/
theorem two_mul_n_lt (hi : Inv s) (hinit : s.initDone = true) : 2 * s.n.toNat < 2 ^ 18 := by
  obtain ⟨-, hcap, -⟩ := hi.caps_ok
  obtain ⟨-, hn, -⟩ := hi.dims hinit
  omega

/-- Outside RENDER no transaction is waiting for its answer. -/
theorem not_waiting (hi : Inv s) {p : BitVec 4} (hp : s.phase = p) (hne : p ≠ codeRender := by decide) :
    s.renderOpen = false :=
  Bool.eq_false_iff.mpr fun h => hne (hp.symm.trans (hi.waiting_in_render h))

/-- I5: the frame handed over is of even length, so DECODE never traps (R102). -/
theorem frlen_even_mod (hi : Inv s) : s.frlen.toNat % 2 = 0 := by
  have := hi.frlen_even
  omega

/-- What the operation of the phase held reads has been written. -/
theorem operands_written (hi : Inv s) {p : BitVec 4} (hp : s.phase = p) : OperandsWritten s p :=
  hp ▸ (frameWritten_iff s).mp hi.working_written

/-! ### Updates of inputs, outputs and flags -/

theorem withEnv (hi : Inv s) (e : Env) : Inv (s.withEnv e) := { hi with }

theorem emit (hi : Inv s) (e : Event) : Inv (s.emit e) := { hi with }

theorem answer (hi : Inv s) (w : Word) : Inv (s.answer w) := { hi with }

theorem enterBadCommand (hi : Inv s) : Inv (enterBadCommand s) := { hi with }

theorem clearRecord (hi : Inv s) : Inv s.clearRecord :=
  { hi with
    running_no_error := fun _ => rfl
    err_codes := .inl rfl
    pending_running := nofun }

theorem requestCancel (hi : Inv s) : Inv (requestCancel s) := by
  cases hcs : s.cs with
  | running => rw [requestCancel_running hcs]; exact { hi with pending_running := fun _ => hcs }
  | stopped => rw [requestCancel_stopped hcs]; exact hi

/-! ### Moves of the controller -/

/-- The controller moves between two phases with the framer as it was, once the operands of the phase it enters are
written: every operation of the frame sequence but PUSH and DRAIN. -/
theorem advance (hi : Inv s) {q p : BitVec 4} (hs : s.phase = q) (ht : t.phase = p) (hopen : s.renderOpen = false)
    (hsame : SameButWorking s t) (hcanon : MemoriesCanonical t) (hops : OperandsWritten t p)
    (hq : PlainPhase q := by decide) (hp : PlainPhase p := by decide) : Inv t := by
  subst hs ht
  obtain ⟨hidle, hdrain, hres⟩ := hp
  have hrun := hi.running rfl hq.1
  have hcnt := hi.cnt_ne (hi.initialised rfl hq.1) rfl hq.2.1
  cases t
  cases hsame
  exact { hi with
    idle_iff_stopped := iff_of_false hidle (by simp [hrun])
    phase_valid := hres
    full_iff_drain := fun _ => iff_of_false hcnt hdrain
    waiting_in_render := fun h => by simp [hopen] at h
    canonical := hcanon
    working_written := (frameWritten_iff _).mpr hops }

/-- STOP and the fatal faults: from any phase but DRAIN and RENDER the controller may stop, with any of the codes ERR
can hold. -/
theorem stop (hi : Inv s) {q e : BitVec 4} (hs : s.phase = q) (he : e = 0 ∨ e = 1 ∨ e = 2 ∨ e = 4) (hist : List Event)
    (hdrain : q ≠ codeDrain := by decide) (hrender : q ≠ codeRender := by decide) :
    Inv { s with err := e, hist := hist, cancelPend := false, cs := .stopped, phase := codeIdle } :=
  { hi with
    idle_iff_stopped := iff_of_true rfl rfl
    phase_valid := show codeIdle ≠ 15 by decide
    running_initialised := nofun
    full_iff_drain := fun hinit => iff_of_false (hi.cnt_ne hinit hs hdrain) (show codeIdle ≠ codeDrain by decide)
    running_no_error := nofun
    err_codes := he
    pending_running := nofun
    waiting_in_render := fun h => by simp [hi.not_waiting hs hrender] at h
    working_written := (frameWritten_iff _).mpr trivial }

/-- The reset input, in any state (R225). -/
theorem hardwareReset (hcaps : s.caps.Ok) : Inv s.hardwareReset where
  caps_ok := hcaps
  idle_iff_stopped := iff_of_true rfl rfl
  phase_valid := show State.reset.phase ≠ 15 by decide
  dims := nofun
  uninitialised := fun _ => ⟨rfl, rfl, rfl, rfl, rfl, rfl, rfl⟩
  running_initialised := nofun
  cnt_le := Nat.zero_le _
  full_iff_drain := nofun
  wp_lt := nofun
  frlen_even := .inl rfl
  running_no_error := nofun
  err_codes := .inl rfl
  pending_running := nofun
  waiting_in_render := nofun
  canonical := show MemoriesCanonical State.reset by decide
  framer_written := Memory.writtenBelow_zero _
  frame_written := Memory.writtenBelow_zero _
  window_table := fun _ hi => absurd hi (Nat.not_lt_zero _)
  axis_written := Memory.writtenBelow_zero _
  waterfall_written := fun _ hp => absurd hp (Nat.not_lt_zero _)
  working_written := (frameWritten_iff _).mpr trivial

/-! ### RUN -/

/-- The initialisation of an admissible configuration (R177) latches dimensions within bounds and puts every table in
place. -/
theorem initialise (hi : Inv s) (herr : s.err = 0) (hpend : s.cancelPend = false) (hopen : s.renderOpen = false)
    {cpi loopdur maxspeed fs : BitVec 32} (hb : configBad s.caps cpi (derive cpi loopdur maxspeed fs) = false) :
    Inv (initialise (derive cpi loopdur maxspeed fs) s) := by
  obtain ⟨-, hn2, hnmax, hd1, hdmax⟩ := (configBad_eq_false_iff _ _ _).mp hb
  obtain ⟨hk1, hkh⟩ := derive_k_bounds hn2
  obtain ⟨hn, hd, hh, hk⟩ := initialise_latches hi.caps_ok hb s
  obtain ⟨-, hcap, -⟩ := hi.caps_ok
  generalize derive cpi loopdur maxspeed fs = d at *
  exact {
    caps_ok := hi.caps_ok
    idle_iff_stopped := iff_of_false (show codePoll ≠ codeIdle by decide) nofun
    phase_valid := show codePoll ≠ 15 by decide
    dims := fun _ => by
      rw [DimsOk, hn, hd, hh, hk]
      exact ⟨hn2, hnmax, hd1, hdmax, rfl, hk1, hkh⟩
    uninitialised := nofun
    running_initialised := fun _ => rfl
    cnt_le := Nat.zero_le _
    full_iff_drain := fun _ => iff_of_false (show 0 ≠ 2 * _ by omega) (show codePoll ≠ codeDrain by decide)
    wp_lt := fun _ => by rw [hd]; exact hd1
    frlen_even := .inl rfl
    running_no_error := fun _ => herr
    err_codes := .inl herr
    pending_running := fun h => by simp [hpend] at h
    waiting_in_render := fun h => by simp [hopen] at h
    canonical := by simp [MemoriesCanonical, Memory.wf_write, zeroFill_wf, hi.canonical]
    framer_written := Memory.writtenBelow_zero _
    frame_written := Memory.writtenBelow_zero _
    window_table := fun i hlt => by
      rw [hn] at hlt ⊢
      simpa [hannTable, hlt] using Memory.get_write_of_lt s.win 0 (hannTable d.n) i (by simpa [hannTable] using hlt)
    axis_written := by
      rw [hk]
      exact writtenBelow_write _ _ _ (by simp [speedTable])
    waterfall_written := fun p hp j hj => by
      rw [hd] at hp
      rw [hk] at hj
      simp [zeroFill_get s.wf d.k d.depth p j (by omega) (by omega), hp, hj]
    working_written := (frameWritten_iff _).mpr trivial }

/-- RUN while Stopped, with each of its three outcomes (R177). -/
theorem acceptRun (hi : Inv s) (hcs : s.cs = .stopped) : Inv (acceptRun s) := by
  have hidle : s.phase = codeIdle := hi.idle_iff_stopped.mpr hcs
  have hopened : Inv (opened s) := (hi.clearRecord.emit .openSource).withEnv _
  obtain ⟨-, h⟩ | ⟨-, -, h⟩ | ⟨hb, -, h⟩ := acceptRun_cases s <;> rw [h]
  · exact hi.clearRecord.stop (q := codeIdle) hidle (by decide) _
  · exact hopened.stop (q := codeIdle) hidle (by decide) _
  · exact hopened.initialise rfl rfl (hi.not_waiting hidle) hb

/-- The command RUN, in either controller state (R177, R181). -/
theorem runCommand (hi : Inv s) : Inv (runCommand s) := by
  cases hcs : s.cs with
  | running => rw [runCommand_running hcs]; exact hi.enterBadCommand
  | stopped => rw [runCommand_stopped hcs]; exact hi.acceptRun hcs

/-! ### Register writes -/

/-- A write to CMD, whatever the word (R186). -/
theorem writeCmd (hi : Inv s) (w : Word) : Inv (writeCmd w s) := by
  rw [writeCmd_eq]
  split_ifs
  · exact hi.runCommand
  · exact hi.requestCancel
  · exact hi.enterBadCommand

/-- A write to any index: CMD apart, only registers the invariant does not speak of are written (R64). -/
theorem writeReg (hi : Inv s) (r : RegName) (w : Word) : Inv (writeReg s r w) := by
  cases r with
  | cmd => exact hi.writeCmd w
  | _ => exact { hi with }

end Inv

/-! ### The controller's operations -/

theorem length_of_readFirst {c : Caps} {a : Arr} {m : Memory α} {n : Nat} {xs : List α}
    (h : readFirst c a m n = .ok xs) : xs.length = n :=
  ((readFirst_eq_ok_iff c a m n xs).mp h).1

section Phases

variable {s t : State}

theorem execPoll_keeps_inv (hi : Inv s) (hp : s.phase = codePoll) (h : execPoll s = .next t) : Inv t := by
  have hopen : s.renderOpen = false := hi.not_waiting hp
  obtain ⟨-, rfl⟩ | ⟨-, rfl⟩ := execPoll_next h
  · exact hi.advance (p := codeStop) hp rfl hopen rfl hi.canonical trivial
  · have hi' : Inv (s.withEnv (afterPoll s.env)) := hi.withEnv _
    cases pollAnswer s with
    | none => exact hi'.advance (p := codePoll) hp rfl hopen rfl hi'.canonical trivial
    | some b =>
      have hb : Inv { s.withEnv (afterPoll s.env) with byte := b } := { hi' with }
      exact hb.advance (p := codePush) hp rfl hopen rfl hb.canonical trivial

theorem execFlush_keeps_inv (hi : Inv s) (hp : s.phase = codeFlush) (h : execFlush s = .next t) : Inv t := by
  cases h
  exact (hi.emit .flush).advance (p := codeDecode) hp rfl (hi.not_waiting hp) rfl hi.canonical
    (hi.operands_written hp)

theorem execDecode_keeps_inv (hi : Inv s) (hp : s.phase = codeDecode) (h : execDecode s = .next t) : Inv t := by
  obtain ⟨hodd, -⟩ | ⟨-, bs, hbs, rfl⟩ := execDecode_next h
  · have := hi.frlen_even_mod
    omega
  · have hfrlen : s.frlen.toNat = 2 * s.n.toNat := hi.operands_written hp
    have hlen := length_of_readFirst hbs
    refine hi.advance (p := codeWindow) hp rfl (hi.not_waiting hp) rfl ?_ ?_
    · simp [MemoriesCanonical, Memory.wf_write, hi.canonical]
    · exact writtenBelow_write _ _ _ (by simp only [decodeSamples_length]; omega)

theorem execWindow_keeps_inv (hi : Inv s) (hp : s.phase = codeWindow) (h : execWindow s = .next t) : Inv t := by
  obtain ⟨xs, ws, hxs, hws, rfl⟩ := execWindow_next h
  refine hi.advance (p := codeDft) hp rfl (hi.not_waiting hp) rfl ?_ ?_
  · simp [MemoriesCanonical, Memory.wf_write, hi.canonical]
  · exact writtenBelow_write _ _ _ (by simp [length_of_readFirst hxs, length_of_readFirst hws])

theorem execDft_keeps_inv (hi : Inv s) (hp : s.phase = codeDft) (h : execDft s = .next t) : Inv t := by
  obtain ⟨xs, hxs, rfl⟩ := execDft_next h
  have hh : s.h.toNat ≤ (bins s.n.toNat xs).length := by
    obtain ⟨-, -, -, -, hh, -⟩ := hi.dims (hi.initialised hp)
    simp only [bins, List.length_map, List.length_range]
    omega
  refine hi.advance (p := codeMag) hp rfl (hi.not_waiting hp) rfl ?_ ⟨?_, ?_⟩
  · simp [MemoriesCanonical, Memory.wf_write, hi.canonical]
  · exact writtenBelow_write _ _ _ (by rwa [List.length_map])
  · exact writtenBelow_write _ _ _ (by rwa [List.length_map])

theorem execMag_keeps_inv (hi : Inv s) (hp : s.phase = codeMag) (h : execMag s = .next t) : Inv t := by
  obtain ⟨re, im, hre, him, rfl⟩ := execMag_next h
  refine hi.advance (p := codeDb) hp rfl (hi.not_waiting hp) rfl ?_ ?_
  · simp [MemoriesCanonical, Memory.wf_write, hi.canonical]
  · exact writtenBelow_write _ _ _ (by simp [length_of_readFirst hre, length_of_readFirst him])

theorem execDb_keeps_inv (hi : Inv s) (hp : s.phase = codeDb) (h : execDb s = .next t) : Inv t := by
  obtain ⟨ms, hms, rfl⟩ := execDb_next h
  refine hi.advance (p := codeCrop) hp rfl (hi.not_waiting hp) rfl ?_ ?_
  · simp [MemoriesCanonical, Memory.wf_write, hi.canonical]
  · exact writtenBelow_write _ _ _ (by simp [length_of_readFirst hms])

theorem execCrop_keeps_inv (hi : Inv s) (hp : s.phase = codeCrop) (h : execCrop s = .next t) : Inv t := by
  obtain ⟨ds, hds, rfl⟩ := execCrop_next h
  refine hi.advance (p := codeUpdate) hp rfl (hi.not_waiting hp) rfl ?_ ?_
  · simp [MemoriesCanonical, Memory.wf_write, hi.canonical]
  · exact writtenBelow_write _ _ _ (length_of_readFirst hds).ge

theorem execYield_keeps_inv (hi : Inv s) (hp : s.phase = codeYield) (h : execYield s = .next t) : Inv t := by
  cases h
  split
  · exact hi.advance (p := codeStop) hp rfl (hi.not_waiting hp) rfl hi.canonical trivial
  · exact hi.advance (p := codePoll) hp rfl (hi.not_waiting hp) rfl hi.canonical trivial

theorem execStop_keeps_inv (hi : Inv s) (hp : s.phase = codeStop) (h : execStop s = .next t) : Inv t := by
  cases h
  exact hi.stop hp hi.err_codes (s.hist ++ [.release])

/-- The byte goes to the end of the framer; the push that fills it goes to DRAIN (R92, R93). -/
theorem execPush_keeps_inv (hi : Inv s) (hp : s.phase = codePush) (h : execPush s = .next t) : Inv t := by
  have hinit := hi.initialised hp
  have hlt := hi.cnt_lt hinit hp
  have hcnt : (s.cnt + 1).toNat = s.cnt.toNat + 1 := by
    have := hi.two_mul_n_lt hinit
    simp only [BitVec.toNat_add, BitVec.ofNat_eq_ofNat, BitVec.toNat_ofNat]
    omega
  obtain ⟨hfull, -⟩ | ⟨-, -, rfl⟩ := execPush_next h
  · omega
  · exact { hi with
      idle_iff_stopped := by
        simp only [hi.running hp]
        split <;> decide
      phase_valid := by
        simp only
        split <;> decide
      uninitialised := fun h => by simp [hinit] at h
      cnt_le := by
        simp only [hcnt]
        omega
      full_iff_drain := fun _ => by
        simp only [hcnt]
        split
        · exact iff_of_true ‹_› rfl
        · exact iff_of_false ‹_› (by decide)
      waiting_in_render := fun h => by simp [hi.not_waiting hp] at h
      canonical := by simp [MemoriesCanonical, Memory.wf_write, hi.canonical]
      framer_written := by
        simp only [hcnt]
        exact Memory.writtenBelow_succ hi.framer_written s.byte
      working_written := (frameWritten_iff _).mpr (by simp only; split <;> trivial) }

/-- The frame is handed over and the framer emptied (R95). -/
theorem execDrain_keeps_inv (hi : Inv s) (hp : s.phase = codeDrain) (h : execDrain s = .next t) : Inv t := by
  obtain ⟨bs, hbs, rfl⟩ := execDrain_next h
  have hinit := hi.initialised hp
  obtain ⟨hn, -⟩ := hi.dims hinit
  have hfrlen : (BitVec.ofNat 18 (2 * s.n.toNat)).toNat = 2 * s.n.toNat := by
    rw [BitVec.toNat_ofNat, Nat.mod_eq_of_lt (hi.two_mul_n_lt hinit)]
  exact { hi with
    idle_iff_stopped := iff_of_false (show codeFlush ≠ codeIdle by decide) (by simp [hi.running hp])
    phase_valid := show codeFlush ≠ 15 by decide
    uninitialised := fun h => by simp [hinit] at h
    cnt_le := Nat.zero_le _
    full_iff_drain := fun _ => iff_of_false (show 0 ≠ 2 * s.n.toNat by omega) (show codeFlush ≠ codeDrain by decide)
    frlen_even := .inr hfrlen
    waiting_in_render := fun h => by simp [hi.not_waiting hp] at h
    canonical := by simp [MemoriesCanonical, Memory.wf_write, hi.canonical]
    framer_written := Memory.writtenBelow_zero _
    frame_written := writtenBelow_write _ _ _ (by rw [hfrlen, length_of_readFirst hbs])
    working_written := (frameWritten_iff _).mpr hfrlen }

/-- The row the pointer names is overwritten and the pointer stays below DEPTH (R159). -/
theorem execUpdate_keeps_inv (hi : Inv s) (hp : s.phase = codeUpdate) (h : execUpdate s = .next t) : Inv t := by
  obtain ⟨xs, hxs, rfl⟩ := execUpdate_next h
  have hinit := hi.initialised hp
  have hwp := hi.wp_lt hinit
  obtain ⟨-, hcap, -, hdcap⟩ := hi.caps_ok
  obtain ⟨-, hn, -, hd, hh, -, hk⟩ := hi.dims hinit
  have hlen := length_of_readFirst hxs
  have hi' : Inv { s with wf := s.wf.write (wfCell s.wp.toNat 0) xs, wp := nextWp s.wp s.depth } := { hi with
    uninitialised := fun h => by simp [hinit] at h
    wp_lt := fun _ => by
      simp only [nextWp_toNat hwp (by omega)]
      exact Nat.mod_lt _ (by omega)
    canonical := by simp [MemoriesCanonical, Memory.wf_write, hi.canonical]
    waterfall_written := fun p hp j hj => by
      simp only [get_writeRow s.wf s.wp.toNat p j xs (by omega) (by simp only at hj; omega)]
      split
      · simp only at hj
        simp [hlen, hj]
      · exact hi.waterfall_written p hp j hj }
  exact hi'.advance (p := codeRender) hp rfl (hi.not_waiting hp) rfl hi'.canonical trivial

/-- What the sink's answer does (R163): the transaction is completed, or waits in RENDER. -/
theorem afterRender_keeps_inv (hi : Inv s) (hp : s.phase = codeRender) (a : SinkAnswer) : Inv (afterRender a s) := by
  have hclosed : Inv { s with renderOpen := false } := { hi with waiting_in_render := nofun }
  have hdone : Inv { s with renderOpen := false, phase := codeYield } :=
    hclosed.advance (p := codeYield) hp rfl rfl rfl hi.canonical trivial
  cases a with
  | ok => exact hdone
  | fail => exact { hdone with }
  | noAnswer =>
    rw [afterRender_noAnswer, ← hp]
    exact { hi with waiting_in_render := fun _ => hp }

theorem execRender_keeps_inv (hi : Inv s) (hp : s.phase = codeRender) (h : execRender s = .next t) : Inv t := by
  obtain ⟨matrix, axis, -, -, rfl⟩ := execRender_next h
  refine afterRender_keeps_inv (Inv.withEnv ?_ _) ?_ _ <;> split
  · exact hi
  · exact hi.emit _
  · exact hp
  · exact hp

/-- Every operation of the controller, performed in its own phase, keeps the invariant. -/
theorem exec_phase_keeps_inv (hi : Inv s) {i : Instr} (hp : phaseCode i = some s.phase) (h : exec i s = .next t) :
    Inv t := by
  have hs {p : BitVec 4} (h : some p = some s.phase) : s.phase = p := (Option.some.inj h).symm
  cases i with
  | rdreg | wrreg | run | cancel => cases hp
  | poll => exact execPoll_keeps_inv hi (hs hp) h
  | push => exact execPush_keeps_inv hi (hs hp) h
  | drain => exact execDrain_keeps_inv hi (hs hp) h
  | flush => exact execFlush_keeps_inv hi (hs hp) h
  | decode => exact execDecode_keeps_inv hi (hs hp) h
  | window => exact execWindow_keeps_inv hi (hs hp) h
  | dft => exact execDft_keeps_inv hi (hs hp) h
  | mag => exact execMag_keeps_inv hi (hs hp) h
  | db => exact execDb_keeps_inv hi (hs hp) h
  | crop => exact execCrop_keeps_inv hi (hs hp) h
  | update => exact execUpdate_keeps_inv hi (hs hp) h
  | render => exact execRender_keeps_inv hi (hs hp) h
  | yield => exact execYield_keeps_inv hi (hs hp) h
  | stop => exact execStop_keeps_inv hi (hs hp) h

/-! ### The host's transactions, and every step -/

/-- Every transaction keeps the invariant, in any phase. -/
theorem exec_bus_keeps_inv (hi : Inv s) (p : BitVec 73) (h : exec (decodeBus p) s = .next t) : Inv t := by
  obtain ⟨idx, hd⟩ | ⟨idx, w, hd, -⟩ | hd | hd := decodeBus_cases p <;> rw [hd] at h
  · obtain ⟨w, -, rfl⟩ := execRdreg_next h
    exact hi.answer w
  · cases h
    exact hi.writeReg _ w
  · cases h
    exact hi.runCommand
  · cases h
    exact hi.requestCancel

/-- An operation is fetched on the controller's turn, by PHASE, or on the host's, from its transaction. -/
theorem turnFetch_eq_instr {u : Turn} {i : Instr} (h : turnFetch u s = .instr i) :
    phaseCode i = some s.phase ∨ ∃ p, i = decodeBus p := by
  cases u with
  | controller =>
    obtain ⟨-, hd⟩ := controllerFetch_instr h
    exact .inl (decodePhase_ok hd)
  | bus p => exact .inr ⟨p, (Fetched.instr.inj h).symm⟩
  | cancelReq | rst => cases h

end Phases

/-- Settles O12: by the agent whose turn it is, and for the controller by the phase. -/
theorem stepKeepsTheInvariant : Obligations.StepKeepsTheInvariant := by
  intro s t hs hstep
  have hi : Inv (takeTurn s).2 := by
    obtain ⟨e, he⟩ := takeTurn_snd s
    rw [he]
    exact hs.withEnv e
  obtain ⟨i, hfetch, hexec⟩ | ⟨-, rfl⟩ | ⟨-, rfl⟩ | ⟨-, rfl⟩ := step_next hstep
  · obtain hp | ⟨p, rfl⟩ := turnFetch_eq_instr hfetch
    · exact exec_phase_keeps_inv hi hp hexec
    · exact exec_bus_keeps_inv hi p hexec
  · exact hi
  · exact hi.requestCancel
  · exact Inv.hardwareReset hi.caps_ok

end Sys2Proof.Machine
end

section
/-!
The framer's operations that touch the byte source: POLL in each of its branches and FLUSH (40_framer_decoder R91, R98).
-/

namespace Sys2Proof.Machine

/-! ### POLL -/

theorem exec_poll (s : State) : exec .poll s = execPoll s := rfl

/-- A pending cancellation makes no poll: the inputs stay as they are (R91). -/
theorem execPoll_of_cancelPend {s : State} (h : s.cancelPend = true) : execPoll s = .next (s.goto codeStop) := by
  rw [execPoll, if_pos h]

/-- Without a cancellation POLL does what the source's answer says (R91). -/
theorem execPoll_of_pollAnswer {s : State} {r : Option Byte} (h : s.cancelPend = false) (hr : pollAnswer s = r) :
    execPoll s = .next (afterAnswer r (s.withEnv (afterPoll s.env))) := by
  rw [execPoll, if_neg (by simp [h]), hr]

/-- Settles O22: a pending cancellation, and else each of the source's two answers. -/
theorem pollSeesCancellationFirst : Obligations.PollSeesCancellationFirst := by
  intro s
  rw [exec_poll]
  refine ⟨fun hpend => ?cancelled, fun hpend hnone => ?noByte, fun b hpend hsome => ?byte⟩
  case cancelled => exact execPoll_of_cancelPend hpend
  case noByte => exact execPoll_of_pollAnswer hpend hnone
  case byte => exact execPoll_of_pollAnswer hpend hsome

/-! ### FLUSH -/

theorem exec_flush (s : State) : exec .flush s = .next ((s.emit .flush).goto codeDecode) := rfl

/-- Settles O26: the event, and then the next phase. -/
theorem flushEmitsOneEvent : Obligations.FlushEmitsOneEvent := fun s => exec_flush s

end Sys2Proof.Machine
end

section
/-!
The transform path WINDOW to CROP as one computation (41_window_fft, 42_db_converter R135): what each of the five
operations writes, given what the one before it wrote, and the row they compute together.
-/

namespace Sys2Proof.Machine

/-- What was written from the start of an array is read back. -/
theorem readFirst_write {α : Type} {c : Caps} {a : Arr} {m : Memory α} {xs : List α} {n : Nat} (hl : n ≤ xs.length)
    (hc : n ≤ a.capacity c) : readFirst c a (m.write 0 xs) n = .ok (xs.take n) := by
  refine (readFirst_eq_ok_iff ..).mpr ⟨List.length_take_of_le hl, hc, fun i hi => ?_⟩
  rw [List.getElem?_take_of_lt hi]
  simpa using m.get_write_of_lt 0 xs i (by omega)

/-- A list written whole is read back whole. -/
theorem readFirst_write_all {α : Type} {c : Caps} {a : Arr} {m : Memory α} {xs : List α} {n : Nat}
    (hl : xs.length = n) (hc : n ≤ a.capacity c) : readFirst c a (m.write 0 xs) n = .ok xs := by
  rw [readFirst_write hl.ge hc, List.take_of_length_le hl.le]

/-- A list of operations answers what its rest answers from the state its first operation leaves. -/
theorem execAll_cons {i : Instr} {is : List Instr} {s t : State} {r : Result} (h : exec i s = .next t)
    (hrest : execAll is t = r) : execAll (i :: is) s = r := by
  rw [execAll, h]
  exact hrest

/-! ### The five operations, each after the one before it -/

/-- The magnitude of each bin (R118). -/
def magnitudes (bs : List (Value × Value)) : List Value := bs.map fun b => Config.num.mag b.1 b.2

/-- The state as WINDOW leaves it, with the products `xw`. -/
def State.storeXw (s : State) (xw : List Value) : State := { s with xw := s.xw.write 0 xw, phase := codeDft }

/-- The state as DFT leaves it, with the bins `bs`. -/
def State.storeBins (s : State) (bs : List (Value × Value)) : State :=
  { s with xre := s.xre.write 0 (bs.map Prod.fst), xim := s.xim.write 0 (bs.map Prod.snd), phase := codeMag }

/-- The state as MAG leaves it, with the magnitudes `ms`. -/
def State.storeMag (s : State) (ms : List Value) : State := { s with mag := s.mag.write 0 ms, phase := codeDb }

/-- The state as DB leaves it, with the decibel values `ds`. -/
def State.storeDbv (s : State) (ds : List Value) : State := { s with dbv := s.dbv.write 0 ds, phase := codeCrop }

/-- The state as CROP leaves it, with the row `r`. -/
def State.storeRow (s : State) (r : List Value) : State := { s with row := s.row.write 0 r, phase := codeUpdate }

theorem exec_window_eq {s : State} {xs ws : List Value} (hxs : readFirst s.caps .smp s.smp s.n.toNat = .ok xs)
    (hws : readFirst s.caps .win s.win s.n.toNat = .ok ws) :
    exec .window s = .next (s.storeXw (List.zipWith Config.num.mul xs ws)) := execWindow_eq hxs hws

theorem exec_dft_storeXw {s : State} {xw : List Value} (hl : xw.length = s.n.toNat) (hn : s.n.toNat ≤ s.caps.nmax) :
    exec .dft (s.storeXw xw) = .next ((s.storeXw xw).storeBins (bins s.n.toNat xw)) :=
  execDft_eq (readFirst_write_all hl hn)

theorem exec_mag_storeBins {s : State} {bs : List (Value × Value)} (hl : s.h.toNat ≤ bs.length)
    (hh : s.h.toNat ≤ s.caps.nmax / 2) :
    exec .mag (s.storeBins bs) = .next ((s.storeBins bs).storeMag (magnitudes (bs.take s.h.toNat))) := by
  have hcap : s.h.toNat ≤ s.caps.nmax := by omega
  have hre : readFirst s.caps .xre (s.storeBins bs).xre s.h.toNat = .ok ((bs.map Prod.fst).take s.h.toNat) :=
    readFirst_write (by simpa) hcap
  have him : readFirst s.caps .xim (s.storeBins bs).xim s.h.toNat = .ok ((bs.map Prod.snd).take s.h.toNat) :=
    readFirst_write (by simpa) hcap
  have hzip : List.zipWith Config.num.mag ((bs.map Prod.fst).take s.h.toNat) ((bs.map Prod.snd).take s.h.toNat)
      = magnitudes (bs.take s.h.toNat) := by
    rw [← List.map_take, ← List.map_take, List.zipWith_map, List.zipWith_self, magnitudes]
  rw [← hzip]
  exact execMag_eq hre him hh

theorem exec_db_storeMag {s : State} {ms : List Value} (hl : ms.length = s.h.toNat)
    (hh : s.h.toNat ≤ s.caps.nmax / 2) :
    exec .db (s.storeMag ms) = .next ((s.storeMag ms).storeDbv (ms.map Config.num.db)) :=
  execDb_eq (readFirst_write_all hl hh)

theorem exec_crop_storeDbv {s : State} {ds : List Value} (hl : s.k.toNat ≤ ds.length)
    (hk : s.k.toNat ≤ s.caps.nmax / 2) :
    exec .crop (s.storeDbv ds) = .next ((s.storeDbv ds).storeRow (ds.take s.k.toNat)) :=
  execCrop_eq (readFirst_write hl hk)

/-! ### The path -/

/-- The decibel values of the first `h` of the `n` bins of `xw` (R118, R119, R131). -/
def decibels (n h : Nat) (xw : List Value) : List Value := (magnitudes ((bins n xw).take h)).map Config.num.db

theorem length_decibels {n h : Nat} (hn : h ≤ n) (xw : List Value) : (decibels n h xw).length = h := by
  simp [decibels, magnitudes, bins, hn]

theorem getElem?_decibels {n h k : Nat} (hk : k < h) (hn : h ≤ n) (xw : List Value) :
    (decibels n h xw)[k]?
      = some (Config.num.db (Config.num.mag (Config.num.dft n xw k).1 (Config.num.dft n xw k).2)) := by
  simp [decibels, magnitudes, bins, List.getElem?_take_of_lt hk, List.getElem?_range (hk.trans_le hn)]

/-- The state as the five operations leave it, from the windowed samples `xw`. -/
def State.storeTransform (s : State) (xw : List Value) : State :=
  let bs := bins s.n.toNat xw
  let ds := decibels s.n.toNat s.h.toNat xw
  ((((s.storeXw xw).storeBins bs).storeMag (magnitudes (bs.take s.h.toNat))).storeDbv ds).storeRow (ds.take s.k.toNat)

/-- WINDOW to CROP, for every window and window table that are written. -/
theorem execAll_transform {s : State} {xs ws : List Value} (hxs : readFirst s.caps .smp s.smp s.n.toNat = .ok xs)
    (hws : readFirst s.caps .win s.win s.n.toNat = .ok ws) (hh : s.h.toNat = s.n.toNat / 2)
    (hk : s.k.toNat ≤ s.h.toNat) :
    execAll [.window, .dft, .mag, .db, .crop] s
      = .next (s.storeTransform (List.zipWith Config.num.mul xs ws)) := by
  have hn : s.n.toNat ≤ s.caps.nmax := ((readFirst_eq_ok_iff ..).mp hxs).2.1
  have hhalf : s.h.toNat ≤ s.caps.nmax / 2 := by omega
  have hhn : s.h.toNat ≤ s.n.toNat := by omega
  have hwindow := exec_window_eq hxs hws
  have hlen : (List.zipWith Config.num.mul xs ws).length = s.n.toNat := by
    simp [length_of_readFirst hxs, length_of_readFirst hws]
  generalize List.zipWith Config.num.mul xs ws = xw at hwindow hlen ⊢
  have hlbins : s.h.toNat ≤ (bins s.n.toNat xw).length := by simpa [bins]
  have hlmag : (magnitudes ((bins s.n.toNat xw).take s.h.toNat)).length = s.h.toNat := by
    simpa [magnitudes] using hlbins
  have hldb : s.k.toNat ≤ (decibels s.n.toNat s.h.toNat xw).length := hk.trans (length_decibels hhn xw).ge
  refine execAll_cons hwindow ?_
  refine execAll_cons (exec_dft_storeXw hlen hn) ?_
  refine execAll_cons (exec_mag_storeBins hlbins hhalf) ?_
  refine execAll_cons (exec_db_storeMag hlmag hhalf) ?_
  exact execAll_cons (exec_crop_storeDbv hldb (hk.trans hhalf)) rfl

theorem storeTransform_row_get {s : State} {k : Nat} (hhn : s.h.toNat ≤ s.n.toNat) (hk : s.k.toNat ≤ s.h.toNat)
    (hlt : k < s.k.toNat) (xw : List Value) :
    (s.storeTransform xw).row.get k = (decibels s.n.toNat s.h.toNat xw)[k]? := by
  have hlen : k < ((decibels s.n.toNat s.h.toNat xw).take s.k.toNat).length := by
    rwa [List.length_take_of_le (hk.trans (length_decibels hhn xw).ge)]
  have hget := s.row.get_write_of_lt 0 _ k hlen
  rwa [Nat.zero_add, List.getElem?_take_of_lt hlt] at hget

/-- A window table that holds the coefficients of N is read as the table of N (R111, R112). -/
theorem readFirst_hannTable {s : State} (hn : s.n.toNat ≤ s.caps.nmax)
    (hwin : ∀ i < s.n.toNat, s.win.get i = some (Config.num.hann s.n.toNat i)) :
    readFirst s.caps .win s.win s.n.toNat = .ok (hannTable s.n.toNat) := by
  refine (readFirst_eq_ok_iff ..).mpr ⟨by simp [hannTable], hn, fun i hi => ?_⟩
  simp [hwin i hi, hannTable, List.getElem?_range hi]

/-- Settles O35: the path with the window table of N, and the entries of the row it leaves. -/
theorem transformOfTheWholeWindow : Obligations.TransformOfTheWholeWindow := by
  intro s xs hn hh hk hlen hsmp hwin
  have hhn : s.h.toNat ≤ s.n.toNat := by omega
  have hxs : readFirst s.caps .smp s.smp s.n.toNat = .ok xs := (readFirst_eq_ok_iff ..).mpr ⟨hlen, hn, hsmp⟩
  refine ⟨_, execAll_transform hxs (readFirst_hannTable hn hwin) hh hk, fun k hlt => ?_, rfl⟩
  rw [storeTransform_row_get hhn hk hlt, getElem?_decibels (hlt.trans_le hk) hhn]
  rfl

end Sys2Proof.Machine
end

section
/-!
The controller's own operations (45_controller): RUN in a Running and in a Stopped block, YIELD and STOP.
-/

namespace Sys2Proof.Machine

/-! ### YIELD and STOP -/

theorem exec_yield (s : State) :
    exec .yield s = .next (if s.cancelPend = true then s.goto codeStop else s.goto codePoll) := rfl

theorem exec_stop (s : State) :
    exec .stop s = .next { s.emit .release with cancelPend := false, cs := .stopped, phase := codeIdle } := rfl

/-- Settles O45: with and without a pending cancellation. -/
theorem yieldSeesCancellation : Obligations.YieldSeesCancellation := by
  intro s
  rw [exec_yield]
  by_cases hpend : s.cancelPend = true
  · rw [if_pos hpend, if_pos hpend]
    rfl
  · rw [if_neg hpend, if_neg hpend]
    rfl

/-- Settles O46: the event, and then the stop. -/
theorem stopReleasesTheSource : Obligations.StopReleasesTheSource := fun s => exec_stop s

/-! ### RUN -/

theorem exec_run (s : State) : exec .run s = .next (runCommand s) := rfl

/-- Settles O20: while Running the command enters BadCommand, which only sets the flag. -/
theorem runWhileRunningOnlySetsBadcmd : Obligations.RunWhileRunningOnlySetsBadcmd := by
  intro s hrun
  rw [exec_run, runCommand_running hrun]
  rfl

/-- With an admissible configuration and a source that opens, RUN latches the candidates of DERIVE (R177). -/
theorem exec_run_of_opens {s : State} (hcs : s.cs = .stopped)
    (hgood : configBad s.caps s.cpi (derive s.cpi s.loopdur s.maxspeed s.fs) = false) (hopens : openAnswer s = true) :
    exec .run s = .next (initialise (derive s.cpi s.loopdur s.maxspeed s.fs) (opened s)) := by
  rw [exec_run, runCommand_stopped hcs]
  obtain ⟨hbad, -⟩ | ⟨-, hfails, -⟩ | ⟨-, -, hinit⟩ := acceptRun_cases s
  · simp [hgood] at hbad
  · simp [hopens] at hfails
  · rw [hinit]

/-- A table of `f` written from the start of an array replaces its first `n` elements. -/
theorem Memory.get_write_table {α : Type} (m : Memory α) (n : Nat) (f : Nat → α) (i : Nat) :
    (m.write 0 ((List.range n).map f)).get i = if i < n then some (f i) else m.get i := by
  rw [Memory.get_write]
  by_cases hi : i < n <;> simp [hi]

/-- MKWIN, whole (R112). -/
theorem initialise_win_get (d : Derived) (s : State) (i : Nat) :
    (initialise d s).win.get i = if i < d.n then some (Config.num.hann d.n i) else s.win.get i :=
  s.win.get_write_table d.n (Config.num.hann d.n) i

/-- MKAXIS, whole (R146). -/
theorem initialise_spd_get (d : Derived) (s : State) (i : Nat) :
    (initialise d s).spd.get i = if i < d.k then some (Config.num.speed d.n s.fs.toNat i) else s.spd.get i :=
  s.spd.get_write_table d.k (Config.num.speed d.n s.fs.toNat) i

/-- WFINIT, whole (R156). -/
theorem initialise_wf_get (d : Derived) (s : State) {p j : Nat} (hk : d.k ≤ 65536) (hj : j < 65536) :
    (initialise d s).wf.get (wfCell p j)
      = if p < d.depth ∧ j < d.k then some Value.zero else s.wf.get (wfCell p j) :=
  zeroFill_get s.wf d.k d.depth p j hk hj

/-- Settles O17: the state after the initialisation, whose registers hold DERIVE's candidates exactly. -/
theorem runInitialisesTheBlock : Obligations.RunInitialisesTheBlock := by
  intro s hcaps hcs hcpi hn2 hnmax hd1 hdmax hopens
  have hgood : configBad s.caps s.cpi (derive s.cpi s.loopdur s.maxspeed s.fs) = false :=
    (configBad_eq_false_iff ..).mpr ⟨by simpa [BitVec.toNat_eq] using hcpi, hn2, hnmax, hd1, hdmax⟩
  obtain ⟨hn, hd, hh, hk⟩ := initialise_latches hcaps hgood (opened s)
  refine ⟨_, exec_run_of_opens hcs hgood hopens, hn, hd, ?half, ?retained, fun i => ?window, fun i => ?axis,
    fun p j hj => ?waterfall, rfl⟩
  case half => rw [hh, hn]
  case retained =>
    rw [hh, hn, hk]
    rfl
  case window =>
    rw [hn]
    exact initialise_win_get ..
  case axis =>
    rw [hn, hk]
    exact initialise_spd_get ..
  case waterfall =>
    have hfits : (derive s.cpi s.loopdur s.maxspeed s.fs).k ≤ 65536 := hk ▸ (BitVec.isLt _).le
    rw [hd, hk]
    exact initialise_wf_get _ _ hfits hj

end Sys2Proof.Machine
end

section
/-!
A step by the agent whose turn it is (45_controller R187, 70_reset R225), reset, and the placed words (log entry 15).
-/

namespace Sys2Proof.Machine

/-! ### The four agents -/

/-- The state with other turns to come; every other input stays. -/
def State.withTurns (s : State) (ts : List Turn) : State := s.withEnv { s.env with turns := ts }

section Agents

variable {s : State} {ts : List Turn}

theorem fetch_of_turn {u : Turn} (h : s.env.turns = u :: ts) :
    fetch s = (turnFetch u (s.withTurns ts), s.withTurns ts) := by
  rw [fetch, takeTurn_cons h]
  rfl

/-- The host's turn (R71, R80). -/
theorem step_bus {p : BitVec 73} (h : s.env.turns = .bus p :: ts) : step s = exec (decodeBus p) (s.withTurns ts) := by
  rw [step, fetch_of_turn h]
  rfl

/-- The controller's turn while Running (R20, R74). -/
theorem step_phase {i : Instr} (h : s.env.turns = .controller :: ts) (hcs : s.cs = .running)
    (hd : decodePhase s.phase = .ok i) : step s = exec i (s.withTurns ts) := by
  have hfetch : controllerFetch (s.withTurns ts) = .instr i := by
    simp [controllerFetch, State.withTurns, hcs, hd]
  rw [step, fetch_of_turn h, turnFetch, hfetch]

/-- The controller's turn while Stopped (R20). -/
theorem step_stopped (h : s.env.turns = .controller :: ts) (hcs : s.cs = .stopped) :
    step s = .next (s.withTurns ts) := by
  have hfetch : controllerFetch (s.withTurns ts) = .idle := by simp [controllerFetch, State.withTurns, hcs]
  rw [step, fetch_of_turn h, turnFetch, hfetch]

/-- The controller's turn while Running at a code that is no operation's (R74). -/
theorem step_noOperation {e : DecodeReject} (h : s.env.turns = .controller :: ts) (hcs : s.cs = .running)
    (hd : decodePhase s.phase = .error e) (he : e ≠ .reservedPhase) : step s = .next (s.withTurns ts) := by
  have hfetch : controllerFetch (s.withTurns ts) = .idle := by
    simp only [controllerFetch, State.withTurns, State.withEnv_cs, State.withEnv_phase, hcs, hd]
  rw [step, fetch_of_turn h, turnFetch, hfetch]

/-- The controller's turn while Running at the reserved code (R79). -/
theorem step_reservedPhase (h : s.env.turns = .controller :: ts) (hcs : s.cs = .running)
    (hd : decodePhase s.phase = .error .reservedPhase) : step s = .fault .reservedPhase := by
  have hfetch : controllerFetch (s.withTurns ts) = .reservedPhase := by
    simp [controllerFetch, State.withTurns, hcs, hd]
  rw [step, fetch_of_turn h, turnFetch, hfetch]

/-- A pulse on `cancel_req` (R182). -/
theorem step_cancelReq (h : s.env.turns = .cancelReq :: ts) : step s = .next (requestCancel (s.withTurns ts)) := by
  rw [step, fetch_of_turn h]
  rfl

/-- The reset input (R225). -/
theorem step_rst (h : s.env.turns = .rst :: ts) : step s = .next (s.withTurns ts).hardwareReset := by
  rw [step, fetch_of_turn h]
  rfl

end Agents

/-- Settles O6: the host's turn. -/
theorem stepRunsHostTransaction : Obligations.StepRunsHostTransaction := by
  rintro s p ts i h rfl
  exact step_bus h

/-- Settles O7: the controller's turn, in each of its two states. -/
theorem stepRunsPhaseOperation : Obligations.StepRunsPhaseOperation :=
  fun _ _ h => ⟨fun _ hcs hd => step_phase h hcs hd, step_stopped h⟩

/-- Settles O8: the reset input. -/
theorem resetInputResetsTheBlock : Obligations.ResetInputResetsTheBlock := fun _ _ h => step_rst h

/-! ### Reset -/

/-- Settles O10: the fields of the reset state, read off. -/
theorem resetValuesOfTheSpec : Obligations.ResetValuesOfTheSpec := by
  unfold Obligations.ResetValuesOfTheSpec
  decide

/-- Settles O11: the reset state is what the reset input makes of itself. -/
theorem resetHasTheInvariant : Obligations.ResetHasTheInvariant :=
  Inv.hardwareReset (s := State.reset) (by decide)

/-! ### The pin and the command CANCEL -/

theorem exec_cancel (s : State) : exec .cancel s = .next (requestCancel s) := rfl

theorem stopped_of_not_running {s : State} (h : s.cs ≠ .running) : s.cs = .stopped := by
  cases hcs : s.cs with
  | running => exact absurd hcs h
  | stopped => rfl

theorem requestCancel_eq (s : State) :
    requestCancel s = if s.cs = .running then { s with cancelPend := true } else s := by
  split
  case isTrue hcs => exact requestCancel_running hcs
  case isFalse hcs => exact requestCancel_stopped (stopped_of_not_running hcs)

/-- Settles O21: command and pin make the same request. -/
theorem cancellationIsLatchedWhileRunning : Obligations.CancellationIsLatchedWhileRunning := by
  intro s
  refine ⟨?command, fun ts h => ?pin⟩
  case command => rw [exec_cancel, requestCancel_eq]
  case pin =>
    rw [step_cancelReq h, exec_cancel]
    rfl

/-! ### Placed words (log entry 15) -/

/-- A word that decodes as a command is that command when the host writes it to CMD (R29). -/
theorem decodeBus_of_decodeCommand {w : Word} {i : Instr} (h : decodeCommand w = .ok i) :
    decodeBus (busPattern 1 0 w) = i := by
  rw [decodeCommand_eq] at h
  rw [decodeBus_busPattern_cmd]
  split_ifs at h ⊢
  · exact Except.ok.inj h
  · exact Except.ok.inj h

theorem step_giveTurn_bus (s : State) (p : BitVec 73) : step (s.giveTurn (.bus p)) = exec (decodeBus p) s :=
  step_bus rfl

/-- Settles O9: by the format the word is placed in. -/
theorem placedWordRunsNext : Obligations.PlacedWordRunsNext := by
  intro s nbits w e i he hdec
  have hplace : s.withFetchWord nbits w = place s e := by rw [State.withFetchWord, placeTableWord, he]
  rw [hplace]
  cases e with
  | bus p =>
    obtain rfl := Except.ok.inj hdec
    exact step_giveTurn_bus s p
  | cmd w =>
    obtain rfl := decodeBus_of_decodeCommand hdec
    exact step_giveTurn_bus s _
  | phase c => exact step_phase rfl rfl hdec

end Sys2Proof.Machine
end

section
/-!
The control port, register by register (10_state R28 to R46, 45_controller R185, R186): what each read answers, what
each write stores, and the fields of the STATUS word.
-/

namespace Sys2Proof.Machine

/-! ### Words -/

/-- A stored field read as a whole register is its number in 64 bits. -/
theorem zext_eq_ofNat {m : Nat} (x : BitVec m) : zext x = BitVec.ofNat 64 x.toNat := (BitVec.ofNat_toNat 64 x).symm

theorem low32_eq_ofNat (w : Word) : low32 w = BitVec.ofNat 32 w.toNat := by
  apply BitVec.eq_of_toNat_eq
  simp [low32]

theorem low16_eq_ofNat (w : Word) : low16 w = BitVec.ofNat 16 w.toNat := by
  apply BitVec.eq_of_toNat_eq
  simp [low16]

/-- The two fields of WF_ADDR (R43). -/
theorem wfAddr_fields {a : BitVec 32} {r c : Nat} (h : a.toNat = 65536 * r + c) (hc : c < 65536) :
    (wfAddrRow a).toNat = r ∧ (wfAddrCol a).toNat = c := by
  have hlt := a.isLt
  simp only [wfAddrRow, wfAddrCol, BitVec.extractLsb'_toNat, Nat.shiftRight_eq_div_pow]
  omega

/-! ### Reads -/

/-- A read of a register that holds a stored field answers the field's number. -/
theorem exec_rdreg_of_zext {s : State} {idx : BitVec 8} {m : Nat} {x : BitVec m}
    (h : readReg s (regName idx) = .ok (zext x)) :
    exec (.rdreg idx) s = .next (s.answer (BitVec.ofNat 64 x.toNat)) := by
  rw [exec_rdreg_of_readReg h, zext_eq_ofNat]

/-- Settles O53: CMD and STATUS, and the eleven registers that hold a stored field. -/
theorem readsAnswerTheRegisters : Obligations.ReadsAnswerTheRegisters := by
  intro s
  refine ⟨exec_rdreg_of_readReg rfl, exec_rdreg_of_readReg rfl, ?_⟩
  and_intros
  all_goals exact exec_rdreg_of_zext rfl

/-- AXIS_DATA beyond the axis (R46). -/
theorem axisData_of_beyond {s : State} (h : s.k.toNat ≤ s.axisAddr.toNat) : axisData s = .ok 0 :=
  if_neg (by omega)

/-- AXIS_DATA within the axis (R46). -/
theorem axisData_of_get {s : State} {v : Value} (hlt : s.axisAddr.toNat < s.k.toNat)
    (hk : s.k.toNat ≤ s.caps.nmax / 2) (h : s.spd.get s.axisAddr.toNat = some v) : axisData s = .ok v.enc := by
  have hread : readElem s.caps .spd s.spd s.axisAddr.toNat = .ok v :=
    (readElem_eq_ok_iff ..).mpr ⟨hlt.trans_le hk, h⟩
  rw [axisData, if_pos hlt, hread]
  rfl

/-- Settles O56: beyond the axis and within it. -/
theorem axisWindowReads : Obligations.AxisWindowReads :=
  fun _ => ⟨fun h => exec_rdreg_of_readReg (axisData_of_beyond h),
    fun _ hlt hk hget => exec_rdreg_of_readReg (axisData_of_get hlt hk hget)⟩

/-- WF_DATA out of range (R44). -/
theorem wfData_of_beyond {s : State} {r c : Nat} (ha : s.wfAddr.toNat = 65536 * r + c) (hc : c < 65536)
    (h : ¬ (r < s.depth.toNat ∧ c < s.k.toNat)) : wfData s = .ok 0 := by
  obtain ⟨hrow, hcol⟩ := wfAddr_fields ha hc
  simp only [wfData, hrow, hcol]
  exact if_neg h

/-- WF_DATA in range is the logical read it names (R44, R55). -/
theorem wfData_of_memRead {s : State} {r c : Nat} {v : Value} (ha : s.wfAddr.toNat = 65536 * r + c) (hc : c < 65536)
    (hr : r < s.depth.toNat) (hk : c < s.k.toNat) (h : memRead s r c = .ok v) : wfData s = .ok v.enc := by
  obtain ⟨hrow, hcol⟩ := wfAddr_fields ha hc
  simp only [wfData, hrow, hcol]
  rw [if_pos ⟨hr, hk⟩, h]
  rfl

/-- An entry of a logical row is the cell of that row's physical row (R157). -/
theorem getElem?_logicalRow {s : State} {i j : Nat} (hj : j < s.k.toNat) :
    (logicalRow s i)[j]? = some (s.wf.get (wfCell (phys s.wp.toNat s.depth.toNat i) j)) := by
  simp [logicalRow, List.getElem?_range hj]

/-- Settles O55: out of range, and in range through the logical row. -/
theorem waterfallWindowReads : Obligations.WaterfallWindowReads := by
  refine fun s r c ha hc => ⟨fun hout => exec_rdreg_of_readReg (wfData_of_beyond ha hc hout), ?_⟩
  intro v hr hk hd hkcap hentry
  rw [getElem?_logicalRow hk, Option.some.injEq] at hentry
  have hp : phys s.wp.toNat s.depth.toNat r < s.depth.toNat := phys_lt (by omega) _ _
  exact exec_rdreg_of_readReg (wfData_of_memRead ha hc hr hk
    ((memRead_eq_ok_iff ..).mpr ⟨hp.trans_le hd, hk.trans_le hkcap, hentry⟩))

/-! ### Writes -/

/-- Settles O57: the six registers a host writes, each with its low bits. -/
theorem writesStoreTheImplementedField : Obligations.WritesStoreTheImplementedField := by
  intro s w
  rw [← low32_eq_ofNat, ← low16_eq_ofNat]
  exact ⟨rfl, rfl, rfl, rfl, rfl, rfl⟩

/-- Settles O58: each of the eight read-only registers. -/
theorem writesToReadOnlyRegistersAreIgnored : Obligations.WritesToReadOnlyRegistersAreIgnored := by
  intro s idx w h
  simp only [List.mem_cons, List.not_mem_nil, or_false] at h
  obtain rfl | rfl | rfl | rfl | rfl | rfl | rfl | rfl := h <;> rfl

/-- A write to CMD by the word written (R186, R205). -/
theorem exec_wrreg_cmd (s : State) (w : Word) :
    exec (.wrreg 0 w) s
      = .next (if w = 1 then runCommand s else if w = 2 then requestCancel s else enterBadCommand s) :=
  congrArg _ (writeCmd_eq w s)

/-- Settles O60: the three branches of a write to CMD. -/
theorem commandWordsCommand : Obligations.CommandWordsCommand := by
  intro s w
  have hone : w.toNat = 1 ↔ w = 1 := by simp [BitVec.toNat_eq]
  have htwo : w.toNat = 2 ↔ w = 2 := by simp [BitVec.toNat_eq]
  rw [exec_wrreg_cmd, ne_eq, ne_eq, hone, htwo]
  refine ⟨fun h => ?run, fun h => ?cancel, fun h1 h2 => ?bad⟩
  case run => rw [if_pos h, exec_run]
  case cancel => rw [if_neg (by rw [h]; decide), if_pos h, exec_cancel]
  case bad =>
    rw [if_neg h1, if_neg h2]
    rfl

/-! ### The STATUS word (R30) -/

/-- Appending a field below shifts the fields above it up. -/
theorem toNat_append_eq_add {m n : Nat} (x : BitVec m) (y : BitVec n) :
    (x ++ y).toNat = x.toNat * 2 ^ n + y.toNat := by
  rw [BitVec.toNat_append, ← Nat.shiftLeft_add_eq_or_of_lt y.isLt, Nat.shiftLeft_eq]

theorem frameReady_eq_true_iff (s : State) :
    frameReady s = true ↔ 0 < s.n.toNat ∧ s.cnt.toNat = 2 * s.n.toNat := decide_eq_true_iff

theorem runningBit_eq_true_iff (s : State) : runningBit s = true ↔ s.cs = .running := by
  unfold runningBit
  cases s.cs <;> simp

/-- The STATUS word by its stored bits, each with its weight. -/
theorem statusWord_toNat (s : State) :
    (statusWord s).toNat
      = (runningBit s).toNat + 2 * s.phase.toNat + 0x20 * (frameReady s).toNat + 0x40 * s.cancelPend.toNat
        + 0x80 * s.sinkFail.toNat + 0x100 * s.badcmd.toNat + 0x200 * s.initDone.toNat + 0x1000 * s.err.toNat := by
  simp only [statusWord, toNat_append_eq_add, BitVec.toNat_ofBool, BitVec.ofNat_eq_ofNat, BitVec.toNat_ofNat,
    Nat.zero_mod]
  omega

theorem mul_boolToNat (c : Nat) (b : Bool) : c * b.toNat = if b = true then c else 0 := by
  cases b <;> simp

/-- Settles O54: the weights of the bits, and what the two bits that are not stored stand for. -/
theorem statusWordFields : Obligations.StatusWordFields := by
  intro s
  have hrun := mul_boolToNat 1 (runningBit s)
  rw [one_mul] at hrun
  simp only [statusWord_toNat, mul_boolToNat, hrun, runningBit_eq_true_iff, frameReady_eq_true_iff]

end Sys2Proof.Machine
end

section
/-!
What an operation can change (20_memory R64): one statement for the controller's operations and one for the host's
transactions, and the claims about every step that follow from them.
-/

namespace Sys2Proof.Machine

variable {s t : State}

/-- The configuration latched by RUN, with its tables (R27). -/
def State.latched (s : State) :
    BitVec 17 × BitVec 17 × BitVec 16 × BitVec 16 × BitVec 32 × Memory Value × Memory Value :=
  (s.n, s.depth, s.h, s.k, s.yext, s.win, s.spd)

/-- The waterfall and its pointer (R40). -/
def State.waterfall (s : State) : Memory Value × BitVec 16 := (s.wf, s.wp)

/-- The parameter and address registers (R31 to R34, R43, R45). -/
def State.parameters (s : State) : BitVec 32 × BitVec 32 × BitVec 32 × BitVec 32 × BitVec 32 × BitVec 16 :=
  (s.cpi, s.loopdur, s.maxspeed, s.fs, s.wfAddr, s.axisAddr)

/-! ### The controller's operations -/

/-- What an operation of the controller can change: nothing of the latched configuration, the parameter registers, the
port and BADCMD; the waterfall only if it is UPDATE; the history only at its end. -/
structure PhaseEffect (i : Instr) (s t : State) : Prop where
  frame : t = { s with
    env := t.env, cs := t.cs, phase := t.phase, byte := t.byte, fb := t.fb, cnt := t.cnt, fr := t.fr, frlen := t.frlen
    smp := t.smp, xw := t.xw, xre := t.xre, xim := t.xim, mag := t.mag, dbv := t.dbv, row := t.row, wf := t.wf
    wp := t.wp, cancelPend := t.cancelPend, sinkFail := t.sinkFail, err := t.err, renderOpen := t.renderOpen
    hist := t.hist }
  waterfall : i ≠ .update → t.waterfall = s.waterfall
  hist : s.hist <+: t.hist

theorem PhaseEffect.latched {i : Instr} (h : PhaseEffect i s t) : t.latched = s.latched :=
  (congrArg State.latched h.frame :)

theorem PhaseEffect.parameters {i : Instr} (h : PhaseEffect i s t) : t.parameters = s.parameters :=
  (congrArg State.parameters h.frame :)

theorem afterAnswer_effect (i : Instr) (s : State) (e : Env) (r : Option Byte) :
    PhaseEffect i s (afterAnswer r (s.withEnv e)) := by
  cases r with
  | none => exact ⟨rfl, fun _ => rfl, List.prefix_rfl⟩
  | some b => exact ⟨rfl, fun _ => rfl, List.prefix_rfl⟩

theorem afterRender_effect {i : Instr} (h : PhaseEffect i s t) (a : SinkAnswer) :
    PhaseEffect i s (afterRender a t) := by
  obtain ⟨hframe, hwf, hhist⟩ := h
  cases a <;> exact ⟨by rw [hframe]; rfl, hwf, hhist⟩

theorem execRender_effect (h : execRender s = .next t) : PhaseEffect .render s t := by
  obtain ⟨matrix, axis, -, -, rfl⟩ := execRender_next h
  refine afterRender_effect ?_ _
  split
  · exact ⟨rfl, fun _ => rfl, List.prefix_rfl⟩
  · exact ⟨rfl, fun _ => rfl, List.prefix_append _ _⟩

/-- Every operation of the controller, in any state. -/
theorem exec_phase_effect {i : Instr} {p : BitVec 4} (hp : phaseCode i = some p) (h : exec i s = .next t) :
    PhaseEffect i s t := by
  cases i with
  | rdreg | wrreg | run | cancel => cases hp
  | poll =>
    obtain ⟨-, rfl⟩ | ⟨-, rfl⟩ := execPoll_next h
    · exact ⟨rfl, fun _ => rfl, List.prefix_rfl⟩
    · exact afterAnswer_effect _ s _ _
  | push =>
    obtain ⟨-, rfl⟩ | ⟨-, -, rfl⟩ := execPush_next h
    · exact ⟨rfl, fun _ => rfl, List.prefix_rfl⟩
    · exact ⟨rfl, fun _ => rfl, List.prefix_rfl⟩
  | drain =>
    obtain ⟨bs, -, rfl⟩ := execDrain_next h
    exact ⟨rfl, fun _ => rfl, List.prefix_rfl⟩
  | flush =>
    cases h
    exact ⟨rfl, fun _ => rfl, List.prefix_append _ _⟩
  | decode =>
    obtain ⟨-, rfl⟩ | ⟨-, bs, -, rfl⟩ := execDecode_next h
    · exact ⟨rfl, fun _ => rfl, List.prefix_append _ _⟩
    · exact ⟨rfl, fun _ => rfl, List.prefix_rfl⟩
  | window =>
    obtain ⟨xs, ws, -, -, rfl⟩ := execWindow_next h
    exact ⟨rfl, fun _ => rfl, List.prefix_rfl⟩
  | dft =>
    obtain ⟨xs, -, rfl⟩ := execDft_next h
    exact ⟨rfl, fun _ => rfl, List.prefix_rfl⟩
  | mag =>
    obtain ⟨re, im, -, -, rfl⟩ := execMag_next h
    exact ⟨rfl, fun _ => rfl, List.prefix_rfl⟩
  | db =>
    obtain ⟨ms, -, rfl⟩ := execDb_next h
    exact ⟨rfl, fun _ => rfl, List.prefix_rfl⟩
  | crop =>
    obtain ⟨ds, -, rfl⟩ := execCrop_next h
    exact ⟨rfl, fun _ => rfl, List.prefix_rfl⟩
  | update =>
    obtain ⟨xs, -, rfl⟩ := execUpdate_next h
    exact ⟨rfl, fun hne => absurd rfl hne, List.prefix_rfl⟩
  | render => exact execRender_effect h
  | yield =>
    cases h
    split <;> exact ⟨rfl, fun _ => rfl, List.prefix_rfl⟩
  | stop =>
    cases h
    exact ⟨rfl, fun _ => rfl, List.prefix_append _ _⟩

/-- The controller's turn does nothing, or performs the operation PHASE decodes to. -/
theorem step_controller_cases {ts : List Turn} (hturn : s.env.turns = .controller :: ts) (h : step s = .next t) :
    t = s.withTurns ts
      ∨ ∃ i, s.cs = .running ∧ decodePhase s.phase = .ok i ∧ exec i (s.withTurns ts) = .next t := by
  cases hcs : s.cs with
  | stopped => exact .inl (Host.Outcome.next.inj (h.symm.trans (step_stopped hturn hcs)))
  | running =>
    cases hd : decodePhase s.phase with
    | ok i => exact .inr ⟨i, rfl, rfl, (step_phase hturn hcs hd).symm.trans h⟩
    | error e =>
      by_cases hres : e = .reservedPhase
      · subst hres
        cases (step_reservedPhase hturn hcs hd).symm.trans h
      · exact .inl (Host.Outcome.next.inj (h.symm.trans (step_noOperation hturn hcs hd hres)))

/-! ### The host's transactions and the pin -/

/-- A transaction that moves nothing: it can change the parameter and address registers, BADCMD, the cancellation latch
and the answers given. -/
def PortFrame (s t : State) : Prop :=
  t = { s with
    cpi := t.cpi, loopdur := t.loopdur, maxspeed := t.maxspeed, fs := t.fs, wfAddr := t.wfAddr
    axisAddr := t.axisAddr, badcmd := t.badcmd, cancelPend := t.cancelPend, answers := t.answers }

/-- A RUN that was accepted and then refused (R204, R179): the controller stays Stopped and nothing is latched. -/
structure RunRefused (s t : State) : Prop where
  frame : t = { s with
    env := t.env, err := t.err, sinkFail := false, badcmd := false, cancelPend := false, cs := .stopped
    phase := codeIdle, hist := t.hist }
  hist : s.hist <+: t.hist

namespace PortFrame

theorem phase (h : PortFrame s t) : t.phase = s.phase := (congrArg State.phase h :)

theorem cs (h : PortFrame s t) : t.cs = s.cs := (congrArg State.cs h :)

theorem hist (h : PortFrame s t) : t.hist = s.hist := (congrArg State.hist h :)

theorem latched (h : PortFrame s t) : t.latched = s.latched := (congrArg State.latched h :)

theorem waterfall (h : PortFrame s t) : t.waterfall = s.waterfall := (congrArg State.waterfall h :)

end PortFrame

namespace RunRefused

theorem phase (h : RunRefused s t) : t.phase = codeIdle := (congrArg State.phase h.frame :)

theorem cs (h : RunRefused s t) : t.cs = .stopped := (congrArg State.cs h.frame :)

theorem latched (h : RunRefused s t) : t.latched = s.latched := (congrArg State.latched h.frame :)

theorem waterfall (h : RunRefused s t) : t.waterfall = s.waterfall := (congrArg State.waterfall h.frame :)

theorem parameters (h : RunRefused s t) : t.parameters = s.parameters := (congrArg State.parameters h.frame :)

end RunRefused

theorem requestCancel_portFrame (s : State) : PortFrame s (requestCancel s) := by
  rw [requestCancel_eq]
  split <;> rfl

/-- The command RUN: BadCommand while Running; while Stopped refused, or the initialisation. -/
theorem runCommand_cases (s : State) :
    (s.cs = .running ∧ runCommand s = enterBadCommand s)
      ∨ (s.cs = .stopped ∧ RunRefused s (runCommand s))
      ∨ (s.cs = .stopped
        ∧ runCommand s = initialise (derive s.cpi s.loopdur s.maxspeed s.fs) (opened s)) := by
  cases hcs : s.cs with
  | running => exact .inl ⟨rfl, runCommand_running hcs⟩
  | stopped =>
    rw [runCommand_stopped hcs]
    obtain ⟨-, h⟩ | ⟨-, -, h⟩ | ⟨-, -, h⟩ := acceptRun_cases s <;> rw [h]
    · exact .inr (.inl ⟨rfl, rfl, List.prefix_rfl⟩)
    · exact .inr (.inl ⟨rfl, rfl, List.prefix_append _ _⟩)
    · exact .inr (.inr ⟨rfl, rfl⟩)

/-- CMD has the index 0 and no other (R28). -/
theorem regName_eq_cmd_iff (idx : BitVec 8) : regName idx = .cmd ↔ idx = 0 := by
  refine ⟨fun h => ?_, fun h => h ▸ rfl⟩
  unfold regName at h
  split at h
  case h_1 h0 => exact BitVec.eq_of_toNat_eq h0
  all_goals cases h

/-- A write that is no command moves nothing. -/
theorem writeReg_portFrame {idx : BitVec 8} {w : Word} (hw : idx = 0 → w ≠ 1 ∧ w ≠ 2) :
    PortFrame s (writeReg s (regName idx) w) := by
  cases hreg : regName idx with
  | cmd =>
    obtain ⟨h1, h2⟩ := hw ((regName_eq_cmd_iff idx).mp hreg)
    rw [writeReg, writeCmd_eq, if_neg h1, if_neg h2]
    rfl
  | _ => rfl

/-- Everything a transaction can do. -/
theorem exec_bus_cases {p : BitVec 73} (h : exec (decodeBus p) s = .next t) :
    PortFrame s t
      ∨ (decodeBus p = .run ∧ s.cs = .stopped ∧ RunRefused s t)
      ∨ (decodeBus p = .run ∧ s.cs = .stopped
        ∧ t = initialise (derive s.cpi s.loopdur s.maxspeed s.fs) (opened s)) := by
  obtain ⟨idx, hd⟩ | ⟨idx, w, hd, hw⟩ | hd | hd := decodeBus_cases p <;> rw [hd] at h
  · obtain ⟨w, -, rfl⟩ := execRdreg_next h
    exact .inl rfl
  · cases h
    exact .inl (writeReg_portFrame hw)
  · cases h
    obtain ⟨-, hrun⟩ | ⟨hcs, hrun⟩ | ⟨hcs, hrun⟩ := runCommand_cases s
    · exact .inl (by rw [hrun]; rfl)
    · exact .inr (.inl ⟨hd, hcs, hrun⟩)
    · exact .inr (.inr ⟨hd, hcs, hrun⟩)
  · cases h
    exact .inl (requestCancel_portFrame s)

/-! ### Claims about every step -/

/-- Settles O16: each turn but reset, by what it can change. -/
theorem historyOnlyGrows : Obligations.HistoryOnlyGrows := by
  intro s t u ts hturn hne h
  cases u with
  | controller =>
    obtain rfl | ⟨i, -, hd, hexec⟩ := step_controller_cases hturn h
    · exact List.prefix_rfl
    · exact (exec_phase_effect (decodePhase_ok hd) hexec).hist
  | bus p =>
    rw [step_bus hturn] at h
    obtain hport | ⟨-, -, hrefused⟩ | ⟨-, -, rfl⟩ := exec_bus_cases h
    · exact hport.hist.symm ▸ List.prefix_rfl
    · exact hrefused.hist
    · exact List.prefix_append _ _
  | cancelReq =>
    cases (step_cancelReq hturn).symm.trans h
    exact (requestCancel_portFrame _).hist.symm ▸ List.prefix_rfl
  | rst => exact absurd rfl hne

/-- Settles O15: the transactions by what they can do, the pin, and reset. -/
theorem onlyRunAndResetMovePhaseFromOutside : Obligations.OnlyRunAndResetMovePhaseFromOutside := by
  intro s t u ts hi hturn hne h
  cases u with
  | controller => exact absurd rfl hne
  | bus p =>
    rw [step_bus hturn] at h
    obtain hport | ⟨-, hcs, hrefused⟩ | ⟨hrun, hcs, rfl⟩ := exec_bus_cases h
    · exact .inl ⟨hport.phase, hport.cs⟩
    · have hidle : s.phase = codeIdle := hi.idle_iff_stopped.mpr hcs
      exact .inl ⟨hrefused.phase.trans hidle.symm, hrefused.cs.trans hcs.symm⟩
    · exact .inr (.inl ⟨⟨p, rfl, hrun⟩, hcs, hi.idle_iff_stopped.mpr hcs, rfl, rfl⟩)
  | cancelReq =>
    cases (step_cancelReq hturn).symm.trans h
    have hport := requestCancel_portFrame (s.withTurns ts)
    exact .inl ⟨hport.phase, hport.cs⟩
  | rst =>
    cases (step_rst hturn).symm.trans h
    exact .inr (.inr ⟨rfl, rfl, rfl⟩)

/-- Settles O51: the controller's operations by what they can change, UPDATE alone the waterfall; a transaction that
starts a run is excluded. -/
theorem latchedConfigurationIsFixed : Obligations.LatchedConfigurationIsFixed := by
  intro s t u ts _ hturn hne hstart h
  suffices hkeep : t.latched = s.latched
      ∧ (¬ (u = .controller ∧ s.phase = codeUpdate) → t.waterfall = s.waterfall) by
    simpa [State.latched, State.waterfall, and_assoc] using hkeep
  cases u with
  | controller =>
    obtain rfl | ⟨i, -, hd, hexec⟩ := step_controller_cases hturn h
    · exact ⟨rfl, fun _ => rfl⟩
    · have hcode := decodePhase_ok hd
      have heffect := exec_phase_effect hcode hexec
      refine ⟨heffect.latched, fun hnot => heffect.waterfall ?_⟩
      rintro rfl
      exact hnot ⟨rfl, (Option.some.inj hcode).symm⟩
  | bus p =>
    rw [step_bus hturn] at h
    obtain hport | ⟨-, -, hrefused⟩ | ⟨-, hcs, rfl⟩ := exec_bus_cases h
    · exact ⟨hport.latched, fun _ => hport.waterfall⟩
    · exact ⟨hrefused.latched, fun _ => hrefused.waterfall⟩
    · exact absurd ⟨hcs, rfl⟩ hstart
  | cancelReq =>
    cases (step_cancelReq hturn).symm.trans h
    have hport := requestCancel_portFrame (s.withTurns ts)
    exact ⟨hport.latched, fun _ => hport.waterfall⟩
  | rst => exact absurd rfl hne

theorem runCommand_parameters (s : State) : (runCommand s).parameters = s.parameters := by
  obtain ⟨-, h⟩ | ⟨-, h⟩ | ⟨-, h⟩ := runCommand_cases s
  · rw [h]
    rfl
  · exact h.parameters
  · rw [h]
    rfl

/-- Settles O52: reads, the two commands, and the controller's operations. -/
theorem onlyWritesChangeParameters : Obligations.OnlyWritesChangeParameters := by
  intro s t i hne h
  suffices hkeep : t.parameters = s.parameters by simpa [State.parameters] using hkeep
  cases i with
  | rdreg idx =>
    obtain ⟨w, -, rfl⟩ := execRdreg_next h
    rfl
  | wrreg idx w => exact absurd rfl (hne idx w)
  | run =>
    cases h
    exact runCommand_parameters s
  | cancel =>
    cases h
    rw [requestCancel_eq]
    split <;> rfl
  | _ => exact (exec_phase_effect rfl h).parameters

end Sys2Proof.Machine
end

section
/-!
The controller's operations one by one: what each stores, element by element, and what it leaves (40_framer_decoder,
41_window_fft, 42_db_converter).
-/

namespace Sys2Proof.Machine

variable {s : State}

/-! ### Arrays -/

/-- A list written from the start of an array replaces the elements it reaches. -/
theorem Memory.get_write_zero {α : Type} (m : Memory α) (xs : List α) (i : Nat) :
    (m.write 0 xs).get i = if i < xs.length then xs[i]? else m.get i := by
  simp [Memory.get_write]

theorem Memory.get_write_below {α : Type} {m : Memory α} {xs : List α} {i : Nat} (h : i < xs.length) :
    (m.write 0 xs).get i = xs[i]? := by
  rw [Memory.get_write_zero, if_pos h]

theorem Memory.get_write_above {α : Type} {m : Memory α} {xs : List α} {i : Nat} (h : xs.length ≤ i) :
    (m.write 0 xs).get i = m.get i := by
  rw [Memory.get_write_zero, if_neg h.not_gt]

/-- What was read, element by element. -/
theorem get_of_readFirst {α : Type} {c : Caps} {a : Arr} {m : Memory α} {n : Nat} {xs : List α}
    (h : readFirst c a m n = .ok xs) {i : Nat} (hi : i < n) : m.get i = xs[i]? :=
  ((readFirst_eq_ok_iff c a m n xs).mp h).2.2 i hi

/-- A written part of an array reads as the list it is given by. -/
theorem readFirst_of_get {α : Type} {c : Caps} {a : Arr} {m : Memory α} {n : Nat} {xs : List α}
    (hlen : xs.length = n) (hc : n ≤ a.capacity c) (hget : ∀ i < n, m.get i = xs[i]?) : readFirst c a m n = .ok xs :=
  (readFirst_eq_ok_iff ..).mpr ⟨hlen, hc, hget⟩

/-! ### PUSH -/

/-- A byte goes through where the framer has room (R92, R93). -/
theorem execPush_eq (hroom : s.cnt.toNat < 2 * s.n.toNat) (hcap : s.cnt.toNat < 2 * s.caps.nmax) :
    execPush s = .next { s with
      fb := s.fb.write s.cnt.toNat [s.byte]
      cnt := s.cnt + 1
      phase := if s.cnt.toNat + 1 = 2 * s.n.toNat then codeDrain else codePoll } := by
  have hw := (writeElems_eq_ok_iff s.caps .fb s.fb s.cnt.toNat [s.byte] _).mpr ⟨hcap, rfl⟩
  rw [execPush, if_neg (by omega), hw, attempt_ok]
  simp only [isReady, decide_eq_true_eq]

/-- Below `2*N` the count does not wrap in its 18 bits (R39). -/
theorem cnt_succ_toNat (hroom : s.cnt.toNat < 2 * s.n.toNat) : (s.cnt + 1).toNat = s.cnt.toNat + 1 := by
  have hn := s.n.isLt
  simp only [BitVec.toNat_add, BitVec.ofNat_eq_ofNat, BitVec.toNat_ofNat]
  omega

/-- Bit 5 of the STATUS word is FRAME_READY (R30). -/
theorem statusWord_frameReady (s : State) : (statusWord s).getLsbD 5 = frameReady s := by
  simp only [statusWord, BitVec.getLsbD_append, BitVec.getLsbD_ofBool]
  rfl

/-- Settles O23: the byte stored, the count, and the three signs of a full framer. -/
theorem pushStoresAndCounts : Obligations.PushStoresAndCounts := by
  intro s hroom hcap
  have hcnt := cnt_succ_toNat hroom
  refine ⟨_, execPush_eq hroom hcap, fun i => ?stored, hcnt, ?drain, ?poll, ?ready, rfl⟩
  case stored =>
    simp only [Memory.get_write, List.length_singleton]
    by_cases hi : i = s.cnt.toNat
    · simp [hi]
    · rw [if_neg (by omega), if_neg hi]
  case drain => simp [codeDrain, codePoll]
  case poll => simp [codeDrain, codePoll]
  case ready =>
    rw [statusWord_frameReady, frameReady_eq_true_iff]
    simp only [hcnt]
    omega

/-- Settles O24: the branch of PUSH that stores nothing. -/
theorem pushOnFullFramerStoresNothing : Obligations.PushOnFullFramerStoresNothing :=
  fun _ hfull => if_pos hfull.ge

/-! ### DRAIN -/

/-- Settles O25: the bytes read from FB are the ones written to FR. -/
theorem drainHandsTheFrameOver : Obligations.DrainHandsTheFrameOver := by
  intro s hn hwritten
  have hcap : 2 * s.n.toNat ≤ Arr.fb.capacity s.caps := Nat.mul_le_mul_left 2 hn
  obtain ⟨bs, hbs⟩ := readFirst_of_written s.caps .fb s.fb (2 * s.n.toNat) hcap hwritten
  refine ⟨_, execDrain_eq hbs, fun i => ?_, ?_, rfl⟩
  · simp only [Memory.get_write_zero, length_of_readFirst hbs]
    split
    · exact (get_of_readFirst hbs ‹_›).symm
    · rfl
  · have hfits := s.n.isLt
    simp only [BitVec.toNat_ofNat]
    omega

/-! ### DECODE -/

theorem sampleWord_eq_ofNat (hi lo : Byte) : sampleWord hi lo = BitVec.ofNat 16 (256 * hi.toNat + lo.toNat) := by
  apply BitVec.eq_of_toNat_eq
  rw [← sampleWord_toNat, BitVec.ofNat_toNat, BitVec.setWidth_eq]

/-- Settles O27: the bytes read from FR, paired by position. -/
theorem decodePairsHighByteFirst : Obligations.DecodePairsHighByteFirst := by
  intro s heven hcap hwritten
  obtain ⟨bs, hbs⟩ := readFirst_of_written s.caps .fr s.fr s.frlen.toNat hcap hwritten
  have hlen : (decodeSamples bs).length = s.frlen.toNat / 2 := by
    rw [decodeSamples_length, length_of_readFirst hbs]
  refine ⟨_, execDecode_eq heven hbs, fun i hi lo hlt hhi hlo => ?pair, fun i hge => ?above, rfl⟩
  case pair =>
    rw [get_of_readFirst hbs (by omega)] at hhi hlo
    refine (Memory.get_write_below (by omega)).trans ?_
    rw [decodeSamples_getElem? bs i hi lo hhi hlo, sampleWord_eq_ofNat]
  case above => exact Memory.get_write_above (by omega)

/-- Settles O28: the trap. -/
theorem decodeTrapsOddLength : Obligations.DecodeTrapsOddLength := fun _ hodd => if_pos hodd

/-- Settles O29: pair by pair, each by NP4. -/
theorem decodedVoltagesInRange : Obligations.DecodedVoltagesInRange := by
  intro bs
  induction bs using decodeSamples.induct with
  | case1 hi lo bs ih =>
    rintro ⟨hcode, hrest⟩ v hv
    rw [decodeSamples, List.mem_cons] at hv
    obtain rfl | hv := hv
    · exact Config.hardware.lawful.vdec_range _ hcode
    · exact ih hrest v hv
  | case2 bs hshort =>
    rw [decodeSamples.eq_2 bs hshort]
    exact fun _ _ hv => absurd hv List.not_mem_nil

/-! ### WINDOW to CROP -/

/-- Settles O30: the products of what is read from SMP and from WIN. -/
theorem windowMultipliesElementwise : Obligations.WindowMultipliesElementwise := by
  intro s hn hsmp hwin
  obtain ⟨xs, hxs⟩ := readFirst_of_written s.caps .smp s.smp s.n.toNat hn hsmp
  obtain ⟨ws, hws⟩ := readFirst_of_written s.caps .win s.win s.n.toNat hn hwin
  have hlen : (List.zipWith Config.num.mul xs ws).length = s.n.toNat := by
    simp [length_of_readFirst hxs, length_of_readFirst hws]
  refine ⟨_, execWindow_eq hxs hws, fun i x w hi hx hw => ?product, fun i hge => ?above, rfl⟩
  case product =>
    rw [get_of_readFirst hxs hi] at hx
    rw [get_of_readFirst hws hi] at hw
    refine (Memory.get_write_below (by omega)).trans ?_
    rw [List.getElem?_zipWith, hx, hw]
  case above => exact Memory.get_write_above (by omega)

/-- Settles O31: the bins of the list XW reads as. -/
theorem dftStoresEveryBin : Obligations.DftStoresEveryBin := by
  intro s xs hn hlen hget
  refine ⟨_, execDft_eq (readFirst_of_get hlen hn hget), fun k hk => ?bin, fun i hge => ?above, rfl⟩
  case bin => simp [Memory.get_write_zero, bins, hk]
  case above => exact ⟨Memory.get_write_above (by simpa [bins]), Memory.get_write_above (by simpa [bins])⟩

/-- Settles O32: the magnitudes of what is read from XRE and from XIM. -/
theorem magTakesOneSidedMagnitudes : Obligations.MagTakesOneSidedMagnitudes := by
  intro s hh hre him
  have hcap : s.h.toNat ≤ s.caps.nmax := by omega
  obtain ⟨rs, hrs⟩ := readFirst_of_written s.caps .xre s.xre s.h.toNat hcap hre
  obtain ⟨is, his⟩ := readFirst_of_written s.caps .xim s.xim s.h.toNat hcap him
  have hlen : (List.zipWith Config.num.mag rs is).length = s.h.toNat := by
    simp [length_of_readFirst hrs, length_of_readFirst his]
  refine ⟨_, execMag_eq hrs his hh, fun k re im hk hr hi => ?magnitude, fun i hge => ?above, rfl⟩
  case magnitude =>
    rw [get_of_readFirst hrs hk] at hr
    rw [get_of_readFirst his hk] at hi
    refine (Memory.get_write_below (by omega)).trans ?_
    rw [List.getElem?_zipWith, hr, hi]
  case above => exact Memory.get_write_above (by omega)

/-- Settles O33: the conversion of what is read from MAG. -/
theorem dbConvertsEveryMagnitude : Obligations.DbConvertsEveryMagnitude := by
  intro s hh hmag
  obtain ⟨ms, hms⟩ := readFirst_of_written s.caps .mag s.mag s.h.toNat hh hmag
  have hlen : (ms.map Config.num.db).length = s.h.toNat := by rw [List.length_map, length_of_readFirst hms]
  refine ⟨_, execDb_eq hms, fun k m hk hm => ?value, fun i hge => ?above, rfl⟩
  case value =>
    rw [get_of_readFirst hms hk] at hm
    refine (Memory.get_write_below (by omega)).trans ?_
    rw [List.getElem?_map, hm, Option.map_some]
  case above => exact Memory.get_write_above (by omega)

/-- Settles O34: what is read from DBV. -/
theorem cropKeepsTheFirstK : Obligations.CropKeepsTheFirstK := by
  intro s hk hdbv
  obtain ⟨ds, hds⟩ := readFirst_of_written s.caps .dbv s.dbv s.k.toNat hk hdbv
  refine ⟨_, execCrop_eq hds, fun i => ?_, rfl⟩
  simp only [Memory.get_write_zero, length_of_readFirst hds]
  split
  · exact (get_of_readFirst hds ‹_›).symm
  · rfl

/-! ### The window that denotes zero (R9, NP3) -/

/-- The value a zero window gives at every bin: the floor (R132). -/
theorem real_db_of_zero {n k : Nat} {xw : List Value} (h : ∀ x ∈ xw, Config.num.real x = 0) :
    Config.num.real (Config.num.db (Config.num.mag (Config.num.dft n xw k).1 (Config.num.dft n xw k).2))
      = Config.num.dbFloor := by
  have hlaw := Config.hardware.lawful
  obtain ⟨hre, him⟩ := hlaw.real_dft_zero n xw k h
  refine hlaw.real_db_floor _ ?_
  rw [hlaw.real_mag_zero _ _ hre him]
  exact hlaw.eps_pos.le

/-- Windowing a zero window leaves a zero window, whatever the coefficients. -/
theorem real_windowed_of_zero {xs ws : List Value} (h : ∀ x ∈ xs, Config.num.real x = 0) :
    ∀ x ∈ List.zipWith Config.num.mul xs ws, Config.num.real x = 0 := by
  rw [← List.map_uncurry_zip_eq_zipWith]
  intro x hx
  obtain ⟨⟨a, b⟩, hab, rfl⟩ := List.mem_map.mp hx
  exact Config.hardware.lawful.real_mul_zero a b (h a (List.of_mem_zip hab).1)

/-- Settles O36: the path from a zero window, each entry of its row being the floor. -/
theorem zeroWindowGivesFloorRow : Obligations.ZeroWindowGivesFloorRow := by
  intro s xs hn hh hk hlen hsmp hzero hwin
  have hhn : s.h.toNat ≤ s.n.toNat := by omega
  obtain ⟨ws, hws⟩ := readFirst_of_written s.caps .win s.win s.n.toNat hn hwin
  refine ⟨_, execAll_transform (readFirst_of_get hlen hn hsmp) hws hh hk, fun k hlt => ?_⟩
  have hfloor := real_db_of_zero (n := s.n.toNat) (k := k) (real_windowed_of_zero (ws := ws) hzero)
  refine ⟨_, ?_, hfloor, hfloor.trans Config.num_dbFloor, Config.floor_ne_zero hfloor⟩
  rw [storeTransform_row_get hhn hk hlt, getElem?_decibels (hlt.trans_le hk) hhn]

end Sys2Proof.Machine
end

section
/-!
RUN's two refusals (45_controller R178, R179) and the speed mapper's count of retained bins (43_speed_mapper R143).
-/

namespace Sys2Proof.Machine

/-! ### Refused runs -/

/-- A bad configuration is found before the source is touched (R178). -/
theorem exec_run_of_bad {s : State} (hcs : s.cs = .stopped)
    (hbad : configBad s.caps s.cpi (derive s.cpi s.loopdur s.maxspeed s.fs) = true) :
    exec .run s = .next (enterFatal .configError s.clearRecord) := by
  rw [exec_run, runCommand_stopped hcs]
  obtain ⟨-, hrun⟩ | ⟨hgood, -⟩ | ⟨hgood, -⟩ := acceptRun_cases s
  · rw [hrun]
  · simp [hbad] at hgood
  · simp [hbad] at hgood

/-- A source that does not open is found before anything is latched (R179). -/
theorem exec_run_of_not_opens {s : State} (hcs : s.cs = .stopped)
    (hgood : configBad s.caps s.cpi (derive s.cpi s.loopdur s.maxspeed s.fs) = false) (hopens : openAnswer s = false) :
    exec .run s = .next (enterFatal .sourceUnavailable (opened s)) := by
  rw [exec_run, runCommand_stopped hcs]
  obtain ⟨hbad, -⟩ | ⟨-, -, hrun⟩ | ⟨-, hopened, -⟩ := acceptRun_cases s
  · simp [hgood] at hbad
  · rw [hrun]
  · simp [hopens] at hopened

/-- Settles O18: a configuration with one of the five faults is not a good one. -/
theorem runRefusesBadConfigurations : Obligations.RunRefusesBadConfigurations := by
  intro s hcs hfault
  have hbad : configBad s.caps s.cpi (derive s.cpi s.loopdur s.maxspeed s.fs) = true := by
    by_contra hgood
    obtain ⟨hcpi, hn2, hnmax, hd1, hdmax⟩ := (configBad_eq_false_iff ..).mp (Bool.eq_false_iff.mpr hgood)
    simp only [derive, windowSize, rowCount] at hn2 hnmax hd1 hdmax
    have hcpi : s.cpi.toNat ≠ 0 := by simpa [BitVec.toNat_eq] using hcpi
    omega
  exact exec_run_of_bad hcs hbad

/-- Settles O19: a good configuration, and the source's answer. -/
theorem runReportsUnavailableSource : Obligations.RunReportsUnavailableSource := by
  intro s hcs hcpi hn2 hnmax hd1 hdmax hopens
  have hgood : configBad s.caps s.cpi (derive s.cpi s.loopdur s.maxspeed s.fs) = false :=
    (configBad_eq_false_iff ..).mpr ⟨by simpa [BitVec.toNat_eq] using hcpi, hn2, hnmax, hd1, hdmax⟩
  exact exec_run_of_not_opens hcs hgood hopens

/-! ### Retained bins -/

variable {maxspeed n fs : Nat}

/-- A bin slower than a retained bin is retained. -/
theorem retained_of_le {j k : Nat} (hjk : j ≤ k) (h : retained maxspeed n fs k = true) :
    retained maxspeed n fs j = true := by
  simp only [retained, decide_eq_true_eq] at h ⊢
  refine le_trans ?_ h
  gcongr

theorem retainedCount_succ (maxspeed n fs h : Nat) :
    retainedCount maxspeed n fs (h + 1)
      = retainedCount maxspeed n fs h + if retained maxspeed n fs h = true then 1 else 0 := by
  rw [retainedCount, List.range_succ, List.filter_append, List.length_append, List.filter_singleton]
  cases retained maxspeed n fs h <;> rfl

/-- The retained bins are the first of the one-sided bins (R143). -/
theorem lt_retainedCount_iff {h k : Nat} :
    k < retainedCount maxspeed n fs h ↔ k < h ∧ retained maxspeed n fs k = true := by
  induction h generalizing k with
  | zero => simp [retainedCount]
  | succ h ih =>
    rw [retainedCount_succ]
    split_ifs with hlast
    · have hall : retainedCount maxspeed n fs h = h := by
        refine le_antisymm (retainedCount_le ..) (le_of_forall_lt fun j hj => ?_)
        exact ih.mpr ⟨hj, retained_of_le hj.le hlast⟩
      rw [hall]
      exact ⟨fun hk => ⟨hk, retained_of_le (by omega) hlast⟩, fun hk => hk.1⟩
    · rw [Nat.add_zero, ih]
      refine and_congr_left fun hk => ?_
      have : k ≠ h := fun heq => hlast (heq ▸ hk)
      omega

/-- A bin is retained when its index is at most the quotient of R143. -/
theorem retained_iff_le_div (hfs : 1 ≤ fs) (k : Nat) :
    retained maxspeed n fs k = true ↔ k ≤ maxspeed * n * 2440000000 / (fs * 299000000 * 65536) := by
  rw [Nat.le_div_iff_mul_le (by omega), retained, decide_eq_true_eq, Config.lightSpeed, Config.carrier]
  simp only [mul_assoc]

/-- Settles O37: both counts exceed the same bins. -/
theorem retainedCountClosedForm : Obligations.RetainedCountClosedForm := by
  intro maxspeed n fs h _ hfs
  refine eq_of_forall_lt_iff fun k => ?_
  rw [lt_retainedCount_iff, retained_iff_le_div hfs, lt_min_iff, Nat.lt_succ_iff]

/-- The integer comparison of R143 is the exact comparison of the speed of R144. -/
theorem retained_iff_speed_le (hn : 1 ≤ n) (k : Nat) :
    retained maxspeed n fs k = true
      ↔ ((k : ℚ) * fs / n) * (299000000 / 2440000000) ≤ (maxspeed : ℚ) / 65536 := by
  have hn : (0 : ℚ) < n := by exact_mod_cast hn
  rw [div_mul_div_comm, div_le_div_iff₀ (by positivity) (by norm_num), retained, decide_eq_true_eq,
    ← Nat.cast_le (α := ℚ), Config.lightSpeed, Config.carrier]
  push_cast
  rw [mul_assoc (maxspeed : ℚ)]

/-- Settles O38: bin by bin. -/
theorem retainedBinsAreTheSlowPrefix : Obligations.RetainedBinsAreTheSlowPrefix := by
  intro maxspeed n fs h k hn
  rw [lt_retainedCount_iff, retained_iff_speed_le hn]

end Sys2Proof.Machine
end

section
/-!
The waterfall (44_waterfall): the row map, what UPDATE does to the logical rows, the buffer after any updates, and the
render transaction.
-/

namespace Sys2Proof.Machine

/-! ### The row map (R55) -/

/-- The row map is its own inverse: both ways count back from the pointer. -/
theorem phys_phys {wp depth p : Nat} (hw : wp < depth) (hp : p < depth) : phys wp depth (phys wp depth p) = p := by
  rw [phys_eq hw (phys_lt (by omega) wp p), phys_eq hw hp]
  split_ifs <;> omega

/-- The newest row is the one before the pointer, wrapping. -/
theorem phys_newest {wp depth : Nat} (hw : wp < depth) : phys wp depth 0 = (wp + depth - 1) % depth := by
  rw [phys_eq hw (by omega)]
  split
  · have hwrap : wp + depth - 1 = wp - 1 + depth := by omega
    rw [hwrap, Nat.add_mod_right, Nat.mod_eq_of_lt (by omega)]
    omega
  · rw [Nat.mod_eq_of_lt (by omega)]
    omega

/-- Settles O39: each physical row is met at its own image. -/
theorem rowMapIsABijection : Obligations.RowMapIsABijection := by
  intro wp depth hw
  refine ⟨fun i _ => phys_lt (by omega) wp i, fun p hp => ?_, phys_oldest hw, phys_newest hw⟩
  refine ⟨phys wp depth p, phys_lt (by omega) wp p, phys_phys hw hp, fun j hj hjp => ?_⟩
  rw [← hjp, phys_phys hw hj]

/-- When the pointer moves on, the row it named becomes the newest. -/
theorem phys_succ_zero {wp depth : Nat} (hw : wp < depth) : phys ((wp + 1) % depth) depth 0 = wp := by
  rw [phys_newest (Nat.mod_lt _ (by omega))]
  obtain hlast | hlast : wp + 1 = depth ∨ wp + 1 < depth := by omega
  · rw [hlast, Nat.mod_self, Nat.mod_eq_of_lt (by omega)]
    omega
  · have hwrap : wp + 1 + depth - 1 = wp + depth := by omega
    rw [Nat.mod_eq_of_lt hlast, hwrap, Nat.add_mod_right, Nat.mod_eq_of_lt hw]

/-- When the pointer moves on, every other row is one older. -/
theorem phys_succ_succ {wp depth i : Nat} (hw : wp < depth) (hi : i + 1 < depth) :
    phys ((wp + 1) % depth) depth (i + 1) = phys wp depth i := by
  rw [phys_eq (Nat.mod_lt _ (by omega)) hi, phys_eq hw (by omega)]
  obtain hlast | hlast : wp + 1 = depth ∨ wp + 1 < depth := by omega
  · rw [hlast, Nat.mod_self]
    split_ifs <;> omega
  · rw [Nat.mod_eq_of_lt hlast]
    split_ifs <;> omega

/-! ### Rows as lists -/

/-- A list given by its elements. -/
theorem map_range_eq_map_some {α : Type} {f : Nat → Option α} {xs : List α} {n : Nat} (hlen : xs.length = n)
    (h : ∀ i < n, f i = xs[i]?) : (List.range n).map f = xs.map some := by
  refine List.ext_getElem (by simp [hlen]) fun i hi _ => ?_
  have hin : i < n := by simpa using hi
  simp [h i hin, hlen, hin]

/-- What is read from the start of an array, as a list. -/
theorem map_get_of_readFirst {α : Type} {c : Caps} {a : Arr} {m : Memory α} {n : Nat} {xs : List α}
    (h : readFirst c a m n = .ok xs) : (List.range n).map m.get = xs.map some :=
  map_range_eq_map_some (length_of_readFirst h) fun _ hi => get_of_readFirst h hi

/-- The snapshot's rows are the logical rows in order (R163). -/
theorem map_logicalRow_of_snapshot {s : State} {m : List (List Value)} (h : snapshot s = .ok m) :
    m.map (fun r => r.map some) = (List.range s.depth.toNat).map (logicalRow s) := by
  obtain ⟨hlen, hrows⟩ := snapshot_spec h
  refine List.ext_getElem? fun i => ?_
  by_cases hi : i < s.depth.toNat
  · obtain ⟨r, hr, hk, hentries⟩ := hrows i hi
    simp only [List.getElem?_map, hr, List.getElem?_range hi, Option.map_some]
    refine congrArg some (map_range_eq_map_some hk fun j hj => ?_).symm
    obtain ⟨x, hx, hread⟩ := hentries j hj
    obtain ⟨-, -, hget⟩ := (memRead_eq_ok_iff ..).mp hread
    rw [hget, hx]
  · rw [List.getElem?_eq_none (by simpa [hlen] using hi), List.getElem?_eq_none (by simpa using hi)]

/-! ### UPDATE -/

/-- The state as UPDATE leaves it, with the row `r` (R159). -/
def State.storeNewest (s : State) (r : List Value) : State :=
  { s with wf := s.wf.write (wfCell s.wp.toNat 0) r, wp := nextWp s.wp s.depth, phase := codeRender }

theorem exec_update_eq {s : State} {r : List Value} (h : readFirst s.caps .row s.row s.k.toNat = .ok r)
    (hp : s.wp.toNat < s.caps.depthMax) : exec .update s = .next (s.storeNewest r) := execUpdate_eq h hp

section StoreNewest

variable {s : State} {r : List Value} (hw : s.wp.toNat < s.depth.toNat) (hd : s.depth.toNat ≤ 65536)
  (hr : r.length = s.k.toNat)

include hr in
/-- The row named by the pointer takes `r`, and no other cell changes. -/
theorem storeNewest_wf_get (p : Nat) {j : Nat} (hj : j < 65536) :
    (s.storeNewest r).wf.get (wfCell p j)
      = if p = s.wp.toNat ∧ j < s.k.toNat then r[j]? else s.wf.get (wfCell p j) := by
  rw [← hr]
  exact get_writeRow s.wf s.wp.toNat p j r (hr ▸ (BitVec.isLt s.k).le) hj

include hw hd in
theorem storeNewest_wp : (s.storeNewest r).wp.toNat = (s.wp.toNat + 1) % s.depth.toNat := nextWp_toNat hw hd

include hw hd hr in
/-- The newest logical row is the row stored (R157). -/
theorem logicalRow_storeNewest_zero : logicalRow (s.storeNewest r) 0 = r.map some := by
  refine map_range_eq_map_some hr fun j hj => ?_
  have hj : j < s.k.toNat := hj
  have hcell := storeNewest_wf_get hr s.wp.toNat (hj.trans (BitVec.isLt s.k))
  rw [storeNewest_wp hw hd]
  exact (congrArg (fun p => (s.storeNewest r).wf.get (wfCell p j)) (phys_succ_zero hw)).trans
    (hcell.trans (if_pos ⟨rfl, hj⟩))

include hw hd hr in
/-- Every other logical row is one older (R160). -/
theorem logicalRow_storeNewest_succ {i : Nat} (hi : i + 1 < s.depth.toNat) :
    logicalRow (s.storeNewest r) (i + 1) = logicalRow s i := by
  have hne : phys s.wp.toNat s.depth.toNat i ≠ s.wp.toNat := fun heq => by
    have := phys_injective hw (by omega) (by omega) (heq.trans (phys_oldest hw).symm)
    omega
  refine List.map_congr_left fun j hj => ?_
  have hj : j < s.k.toNat := List.mem_range.mp hj
  have hcell := storeNewest_wf_get hr (phys s.wp.toNat s.depth.toNat i) (hj.trans (BitVec.isLt s.k))
  rw [storeNewest_wp hw hd]
  exact (congrArg (fun p => (s.storeNewest r).wf.get (wfCell p j)) (phys_succ_succ hw hi)).trans
    (hcell.trans (if_neg fun h => hne h.1))

end StoreNewest

/-- Settles O40: the row read from ROW, stored as the newest. -/
theorem updateAgesEveryLogicalRow : Obligations.UpdateAgesEveryLogicalRow := by
  intro s hcaps _ hdmax hw hk hrow
  obtain ⟨-, -, -, hcap⟩ := hcaps
  have hd : s.depth.toNat ≤ 65536 := hdmax.trans hcap
  obtain ⟨r, hr⟩ := readFirst_of_written s.caps .row s.row s.k.toNat hk hrow
  have hlen := length_of_readFirst hr
  refine ⟨_, exec_update_eq hr (by omega), ?newest, fun i h1 hi => ?older, fun p j hj hother => ?cells,
    storeNewest_wp hw hd, rfl⟩
  case newest => rw [logicalRow_storeNewest_zero hw hd hlen, spectrumRow, map_get_of_readFirst hr]
  case older =>
    obtain ⟨i, rfl⟩ := Nat.exists_eq_add_of_le' h1
    exact logicalRow_storeNewest_succ hw hd hlen hi
  case cells => rw [storeNewest_wf_get hlen p hj, if_neg hother]

/-! ### Any number of updates (R168) -/

/-- The buffer holds the rows of a list, newest first, above zero rows, and the pointer has moved once for each. -/
structure HoldsRows (s : State) (newest : List (List Value)) : Prop where
  wp : s.wp.toNat = newest.length % s.depth.toNat
  rows : ∀ i < s.depth.toNat, logicalRow s i = (newest[i]?).elim (zeroRow s) (List.map some)

/-- One update puts its row on top. -/
theorem HoldsRows.storeNewest {s : State} {newest : List (List Value)} {r : List Value} (h : HoldsRows s newest)
    (h1 : 1 ≤ s.depth.toNat) (hd : s.depth.toNat ≤ 65536) (hr : r.length = s.k.toNat) :
    HoldsRows (s.storeNewest r) (r :: newest) := by
  have hw : s.wp.toNat < s.depth.toNat := h.wp ▸ Nat.mod_lt _ h1
  refine ⟨?_, fun i hi => ?_⟩
  · rw [storeNewest_wp hw hd, h.wp, Nat.mod_add_mod]
    rfl
  · cases i with
    | zero => exact logicalRow_storeNewest_zero hw hd hr
    | succ i =>
      rw [logicalRow_storeNewest_succ hw hd hr hi, List.getElem?_cons_succ]
      exact h.rows i (Nat.lt_of_succ_lt hi)

/-- The state with `r` put into ROW, as CROP puts it there. -/
def State.loadRow (s : State) (r : List Value) : State := { s with row := s.row.write 0 r }

/-- The first of a list of updates, and the rest from the state it leaves. -/
theorem updateWith_cons {s : State} {r : List Value} (rs : List (List Value)) (hlen : r.length = s.k.toNat)
    (hk : s.k.toNat ≤ s.caps.nmax / 2) (hw : s.wp.toNat < s.caps.depthMax) :
    updateWith (r :: rs) s = updateWith rs ((s.loadRow r).storeNewest r) := by
  have hexec : exec .update (s.loadRow r) = .next ((s.loadRow r).storeNewest r) :=
    exec_update_eq (readFirst_write_all hlen hk) hw
  rw [State.loadRow] at hexec
  rw [updateWith, hexec, State.loadRow]

/-- The rows put on top one after the other lie in reverse. -/
theorem updateWith_holdsRows {rows newest : List (List Value)} {s : State} (hcap : s.caps.depthMax ≤ 65536)
    (h1 : 1 ≤ s.depth.toNat) (hd : s.depth.toNat ≤ s.caps.depthMax) (hk : s.k.toNat ≤ s.caps.nmax / 2)
    (hrows : ∀ r ∈ rows, r.length = s.k.toNat) (h : HoldsRows s newest) :
    ∃ t, updateWith rows s = .next t ∧ HoldsRows t (rows.reverse ++ newest) ∧ t.depth = s.depth ∧ t.k = s.k := by
  induction rows generalizing s newest with
  | nil => exact ⟨s, rfl, h, rfl, rfl⟩
  | cons r rs ih =>
    have hlen : r.length = s.k.toNat := hrows r List.mem_cons_self
    have hw : s.wp.toNat < s.depth.toNat := h.wp ▸ Nat.mod_lt _ h1
    have hloaded : HoldsRows (s.loadRow r) newest := ⟨h.wp, h.rows⟩
    obtain ⟨t, hrun, hholds, hdepth, hkt⟩ := ih (s := (s.loadRow r).storeNewest r) hcap h1 hd hk
      (fun r' hr' => hrows r' (List.mem_cons_of_mem r hr')) (hloaded.storeNewest h1 (hd.trans hcap) hlen)
    refine ⟨t, (updateWith_cons rs hlen hk (hw.trans_le hd)).trans hrun, ?_, hdepth, hkt⟩
    rwa [List.reverse_cons, List.append_assoc, List.singleton_append]

/-- Settles O41: the rows in reverse, from the cleared buffer. -/
theorem waterfallIsAFifo : Obligations.WaterfallIsAFifo := by
  intro s rows hcaps h1 hd hk hwp hclear hrows
  obtain ⟨-, -, -, hcap⟩ := hcaps
  have hstart : HoldsRows s [] := ⟨by simp [hwp], hclear⟩
  obtain ⟨t, hrun, hholds, hdepth, hkt⟩ := updateWith_holdsRows hcap h1 hd hk hrows hstart
  obtain ⟨hptr, hheld⟩ := hholds
  rw [List.append_nil] at hptr hheld
  rw [hdepth] at hptr hheld
  refine ⟨t, hrun, by rw [hptr, List.length_reverse], fun i r hi hlt hr => ?reached, fun i hi hge => ?unreached⟩
  case reached => rw [hheld i hi, List.getElem?_reverse hlt, hr, Option.elim_some]
  case unreached =>
    rw [hheld i hi, List.getElem?_eq_none (by simpa using hge), Option.elim_none, zeroRow, hkt, zeroRow]

/-! ### RENDER -/

/-- An answer completes the transaction, `fail` with SINK_FAIL (R163, R208). -/
theorem afterRender_of_answer {a : SinkAnswer} (ha : a ≠ .noAnswer) (s : State) :
    afterRender a s
      = { s with sinkFail := s.sinkFail || a == .fail, renderOpen := false, phase := codeYield } := by
  cases a with
  | ok => simp
  | fail => simp
  | noAnswer => exact absurd rfl ha

/-- The state with the transaction emitted, unless it waits for its answer already, and the sink asked (R163). -/
def State.askSink (s : State) (matrix : List (List Value)) (axis : List Value) : State :=
  { s with
    hist := if s.renderOpen = true then s.hist else s.hist ++ [.render matrix axis (yExtent s.yext)]
    env := afterSink s.env }

/-- RENDER asks the sink and does what its answer says. -/
theorem exec_render_eq {s : State} {matrix : List (List Value)} {axis : List Value} (h : snapshot s = .ok matrix)
    (h' : readFirst s.caps .spd s.spd s.k.toNat = .ok axis) :
    exec .render s = .next (afterRender (sinkAnswer s) (s.askSink matrix axis)) := by
  refine (execRender_eq h h').trans ?_
  rw [State.askSink]
  split <;> rfl

/-- With the waterfall and the axis written, RENDER has its matrix and its axis. -/
theorem exists_transaction {s : State} (hd : s.depth.toNat ≤ s.caps.depthMax) (hk : s.k.toNat ≤ s.caps.nmax / 2)
    (hwf : WaterfallWritten s) (hspd : s.spd.writtenBelow s.k.toNat) :
    ∃ matrix axis, snapshot s = .ok matrix ∧ readFirst s.caps .spd s.spd s.k.toNat = .ok axis
      ∧ matrix.map (fun r => r.map some) = (List.range s.depth.toNat).map (logicalRow s)
      ∧ axis.map some = (List.range s.k.toNat).map s.spd.get := by
  obtain ⟨matrix, hm⟩ := snapshot_of_written s hd hk hwf
  obtain ⟨axis, ha⟩ := readFirst_of_written s.caps .spd s.spd s.k.toNat hk hspd
  exact ⟨matrix, axis, hm, ha, map_logicalRow_of_snapshot hm, (map_get_of_readFirst ha).symm⟩

/-- Settles O42: the transaction, and an answer that completes it. -/
theorem renderEmitsTheSnapshot : Obligations.RenderEmitsTheSnapshot := by
  intro s _ hd hk hwf hspd hanswer
  obtain ⟨matrix, axis, hm, ha, hrows, haxis⟩ := exists_transaction hd hk hwf hspd
  refine ⟨matrix, axis, ?_, hrows, haxis⟩
  rw [exec_render_eq hm ha, afterRender_of_answer hanswer]
  rfl

/-- Settles O43: the transaction, and the wait for its answer. -/
theorem renderWaitsForTheSink : Obligations.RenderWaitsForTheSink := by
  intro s _ hd hk hwf hspd hanswer
  obtain ⟨matrix, axis, hm, ha, hrows, haxis⟩ := exists_transaction hd hk hwf hspd
  refine ⟨matrix, axis, ?_, hrows, haxis⟩
  rw [exec_render_eq hm ha, hanswer, afterRender_noAnswer]
  rfl

/-! ### The words of a transaction (R78) -/

/-- Rows of one length, one after the other: the count of elements. -/
theorem length_flatten_of_rows {α : Type} {rows : List (List α)} {k : Nat} (h : ∀ r ∈ rows, r.length = k) :
    rows.flatten.length = rows.length * k := by
  rw [List.length_flatten, List.map_congr_left h, List.map_const', List.sum_replicate, smul_eq_mul]

/-- Rows of one length, one after the other: element `j` of row `i` (row-major order). -/
theorem getElem?_flatten_of_rows {α : Type} {rows : List (List α)} {k i j : Nat} {r : List α}
    (h : ∀ r ∈ rows, r.length = k) (hr : rows[i]? = some r) (hj : j < k) : rows.flatten[i * k + j]? = r[j]? := by
  induction rows generalizing i with
  | nil => simp at hr
  | cons r' rs ih =>
    have hlen : r'.length = k := h r' List.mem_cons_self
    rw [List.flatten_cons]
    cases i with
    | zero =>
      obtain rfl : r' = r := by simpa using hr
      rw [Nat.zero_mul, Nat.zero_add, List.getElem?_append_left (by omega)]
    | succ i =>
      have hskip : (i + 1) * k + j - r'.length = i * k + j := by rw [hlen, Nat.succ_mul]; omega
      rw [List.getElem?_append_right (by rw [hlen, Nat.succ_mul]; omega), hskip]
      exact ih (fun r hr => h r (List.mem_cons_of_mem r' hr)) hr

/-- The words of a transaction after its two counts. -/
theorem getElem?_renderWords (matrix : List (List Value)) (axis : List Value) (ext : Value × Value) (j : Nat) :
    (renderWords matrix axis ext)[2 + j]?
      = (axis.map Value.enc ++ ext.1.enc :: ext.2.enc :: (matrix.map (fun r => r.map Value.enc)).flatten)[j]? := by
  rw [Nat.add_comm]
  simp [renderWords]

/-- Settles O44: the header, the axis, the extent, and the matrix row by row. -/
theorem renderWordsInOrder : Obligations.RenderWordsInOrder := by
  intro matrix axis ext k hk hrows
  have hrows' : ∀ r ∈ matrix.map (fun r => r.map Value.enc), r.length = k := by simpa using hrows
  have hflat := length_flatten_of_rows hrows'
  rw [List.length_map] at hflat
  refine ⟨?count, rfl, ?width, fun j hj => ?axis, ?low, ?high, fun i r j hr hj => ?matrix⟩
  case count =>
    simp only [renderWords, List.length_append, List.length_cons, List.length_nil, List.length_map, hflat, hk]
    omega
  case width => rw [← hk]; rfl
  case axis => rw [getElem?_renderWords, List.getElem?_append_left (by simpa [hk]), List.getElem?_map]
  case low =>
    rw [getElem?_renderWords, List.getElem?_append_right (by simp [hk])]
    simp [hk]
  case high =>
    have hidx : 3 + k = 2 + (k + 1) := by omega
    rw [hidx, getElem?_renderWords, List.getElem?_append_right (by simp [hk])]
    simp [hk]
  case matrix =>
    have hr' : (matrix.map (fun r => r.map Value.enc))[i]? = some (r.map Value.enc) := by simp [hr]
    have hentry := getElem?_flatten_of_rows hrows' hr' hj
    have hidx : 4 + k + i * k + j = 2 + (k + (i * k + j + 2)) := by omega
    rw [hidx, getElem?_renderWords, List.getElem?_append_right (by simp [hk]), List.length_map, hk,
      Nat.add_sub_cancel_left, List.getElem?_cons_succ, List.getElem?_cons_succ, hentry, List.getElem?_map]

end Sys2Proof.Machine
end

section
/-!
The controller from a legal state (45_controller R176, R183, R188): every operation goes through, PHASE follows the
graph, and what neither the cancellation latch nor the data can move.
-/

namespace Sys2Proof.Machine

variable {s t : State}

/-! ### Legal states never stop -/

namespace Inv

/-- What the controller reads at DRAIN: the whole frame (R95). -/
theorem frame_complete (hi : Inv s) (hp : s.phase = codeDrain) : s.fb.writtenBelow (2 * s.n.toNat) := by
  rw [← (hi.full_iff_drain (hi.initialised hp)).mpr hp]
  exact hi.framer_written

/-- The frame handed over fits FR (R25). -/
theorem frlen_le (hi : Inv s) (hinit : s.initDone = true) : s.frlen.toNat ≤ 2 * s.caps.nmax := by
  obtain ⟨-, hn, -⟩ := hi.dims hinit
  have := hi.frlen_even
  omega

theorem window_written (hi : Inv s) : s.win.writtenBelow s.n.toNat :=
  fun i hlt => Option.isSome_iff_exists.mpr ⟨_, hi.window_table i hlt⟩

theorem h_le (hi : Inv s) (hinit : s.initDone = true) : s.h.toNat ≤ s.caps.nmax / 2 := by
  obtain ⟨-, hn, -, -, hh, -⟩ := hi.dims hinit
  omega

theorem k_le (hi : Inv s) (hinit : s.initDone = true) : s.k.toNat ≤ s.caps.nmax / 2 := by
  obtain ⟨-, -, -, -, -, -, hk⟩ := hi.dims hinit
  exact hk.trans (hi.h_le hinit)

/-- With a bin in use the block is initialised: before any RUN `K` is 0 (R48). -/
theorem initialised_of_lt_k (hi : Inv s) {j : Nat} (h : j < s.k.toNat) : s.initDone = true := by
  by_contra hinit
  obtain ⟨-, -, -, hk, -⟩ := hi.uninitialised (Bool.eq_false_iff.mpr hinit)
  rw [hk] at h
  exact Nat.not_lt_zero j h

end Inv

/-- Every operation of the controller goes through in its own phase. -/
theorem exec_phase_goes_through (hi : Inv s) {i : Instr} (hp : phaseCode i = some s.phase) :
    ∃ t, exec i s = .next t := by
  have hs {p : BitVec 4} (h : some p = some s.phase) : s.phase = p := (Option.some.inj h).symm
  cases i with
  | rdreg | wrreg | run | cancel => cases hp
  | poll | flush | yield | stop => exact ⟨_, rfl⟩
  | push =>
    have hinit := hi.initialised (hs hp)
    obtain ⟨-, hn, -⟩ := hi.dims hinit
    have hlt := hi.cnt_lt hinit (hs hp)
    exact ⟨_, execPush_eq hlt (by omega)⟩
  | drain =>
    obtain ⟨-, hn, -⟩ := hi.dims (hi.initialised (hs hp))
    obtain ⟨bs, hbs⟩ := readFirst_of_written s.caps .fb s.fb _ (Nat.mul_le_mul_left 2 hn)
      (hi.frame_complete (hs hp))
    exact ⟨_, execDrain_eq hbs⟩
  | decode =>
    obtain ⟨bs, hbs⟩ := readFirst_of_written s.caps .fr s.fr _ (hi.frlen_le (hi.initialised (hs hp)))
      hi.frame_written
    exact ⟨_, execDecode_eq hi.frlen_even_mod hbs⟩
  | window =>
    obtain ⟨-, hn, -⟩ := hi.dims (hi.initialised (hs hp))
    obtain ⟨xs, hxs⟩ := readFirst_of_written s.caps .smp s.smp _ hn (hi.operands_written (hs hp))
    obtain ⟨ws, hws⟩ := readFirst_of_written s.caps .win s.win _ hn hi.window_written
    exact ⟨_, execWindow_eq hxs hws⟩
  | dft =>
    obtain ⟨-, hn, -⟩ := hi.dims (hi.initialised (hs hp))
    obtain ⟨xs, hxs⟩ := readFirst_of_written s.caps .xw s.xw _ hn (hi.operands_written (hs hp))
    exact ⟨_, execDft_eq hxs⟩
  | mag =>
    have hh := hi.h_le (hi.initialised (hs hp))
    obtain ⟨hre, him⟩ : OperandsWritten s codeMag := hi.operands_written (hs hp)
    have hcap : s.h.toNat ≤ s.caps.nmax := by omega
    obtain ⟨re, hre⟩ := readFirst_of_written s.caps .xre s.xre _ hcap hre
    obtain ⟨im, him⟩ := readFirst_of_written s.caps .xim s.xim _ hcap him
    exact ⟨_, execMag_eq hre him hh⟩
  | db =>
    obtain ⟨ms, hms⟩ := readFirst_of_written s.caps .mag s.mag _ (hi.h_le (hi.initialised (hs hp)))
      (hi.operands_written (hs hp))
    exact ⟨_, execDb_eq hms⟩
  | crop =>
    obtain ⟨-, -, -, -, -, -, hk⟩ := hi.dims (hi.initialised (hs hp))
    have hdbv : s.dbv.writtenBelow s.h.toNat := hi.operands_written (hs hp)
    obtain ⟨ds, hds⟩ := readFirst_of_written s.caps .dbv s.dbv _ (hi.k_le (hi.initialised (hs hp)))
      fun j hj => hdbv j (hj.trans_le hk)
    exact ⟨_, execCrop_eq hds⟩
  | update =>
    have hinit := hi.initialised (hs hp)
    obtain ⟨-, -, -, hd, -⟩ := hi.dims hinit
    obtain ⟨xs, hxs⟩ := readFirst_of_written s.caps .row s.row _ (hi.k_le hinit) (hi.operands_written (hs hp))
    exact ⟨_, execUpdate_eq hxs ((hi.wp_lt hinit).trans_le hd)⟩
  | render =>
    have hinit := hi.initialised (hs hp)
    obtain ⟨-, -, -, hd, -⟩ := hi.dims hinit
    obtain ⟨matrix, axis, hm, ha, -⟩ := exists_transaction hd (hi.k_le hinit) hi.waterfall_written hi.axis_written
    exact ⟨_, execRender_eq hm ha⟩

/-- Every register can be read: the windows name elements that exist and have been written, or answer 0. -/
theorem readReg_goes_through (hi : Inv s) (r : RegName) : ∃ w, readReg s r = .ok w := by
  cases r with
  | wfData =>
    by_cases hin : (wfAddrRow s.wfAddr).toNat < s.depth.toNat ∧ (wfAddrCol s.wfAddr).toNat < s.k.toNat
    · obtain ⟨hrow, hcol⟩ := hin
      have hinit := hi.initialised_of_lt_k hcol
      obtain ⟨-, -, -, hd, -⟩ := hi.dims hinit
      have hp := phys_lt (by omega) s.wp.toNat (depth := s.depth.toNat) (wfAddrRow s.wfAddr).toNat
      obtain ⟨v, hv⟩ := Option.isSome_iff_exists.mp (hi.waterfall_written _ hp _ hcol)
      have hread := (memRead_eq_ok_iff ..).mpr ⟨hp.trans_le hd, hcol.trans_le (hi.k_le hinit), hv⟩
      refine ⟨v.enc, ?_⟩
      rw [readReg, wfData, if_pos ⟨hrow, hcol⟩, hread]
      rfl
    · exact ⟨0, if_neg hin⟩
  | axisData =>
    by_cases hin : s.axisAddr.toNat < s.k.toNat
    · obtain ⟨v, hv⟩ := Option.isSome_iff_exists.mp (hi.axis_written _ hin)
      exact ⟨v.enc, axisData_of_get hin (hi.k_le (hi.initialised_of_lt_k hin)) hv⟩
    · exact ⟨0, if_neg hin⟩
  | _ => exact ⟨_, rfl⟩

/-- Every transaction goes through. -/
theorem exec_bus_goes_through (hi : Inv s) (p : BitVec 73) : ∃ t, exec (decodeBus p) s = .next t := by
  obtain ⟨idx, hd⟩ | ⟨idx, w, hd, -⟩ | hd | hd := decodeBus_cases p <;> rw [hd]
  · obtain ⟨w, hw⟩ := readReg_goes_through hi (regName idx)
    exact ⟨_, exec_rdreg_of_readReg hw⟩
  all_goals exact ⟨_, rfl⟩

/-- The reserved phase is fetched at code 15 only (R79). -/
theorem phase_of_turnFetch_reservedPhase {u : Turn} (h : turnFetch u s = .reservedPhase) : s.phase = 15 := by
  have hcode : ∀ c : BitVec 4, decodePhase c = .error .reservedPhase → c = 15 := by decide
  cases u with
  | bus | cancelReq | rst => cases h
  | controller =>
    rw [turnFetch, controllerFetch] at h
    split at h
    · cases h
    · split at h
      · cases h
      · exact hcode _ ‹_›
      · cases h

/-- Settles O13: by what the turn fetches. -/
theorem legalStatesNeverStop : Obligations.LegalStatesNeverStop := by
  intro s hs
  have hi : Inv (takeTurn s).2 := by
    obtain ⟨e, he⟩ := takeTurn_snd s
    rw [he]
    exact hs.withEnv e
  unfold Safe step fetch
  simp only
  cases hfetch : turnFetch (takeTurn s).1 (takeTurn s).2 with
  | instr i =>
    obtain hp | ⟨p, rfl⟩ := turnFetch_eq_instr hfetch
    · exact exec_phase_goes_through hi hp
    · exact exec_bus_goes_through hi p
  | idle | cancelReq | rst => exact ⟨_, rfl⟩
  | reservedPhase => exact absurd (phase_of_turnFetch_reservedPhase hfetch) hi.phase_valid

/-! ### The phase graph -/

/-- PHASE has moved along an edge, or RENDER waits for its answer (R176, R235). -/
def MovesOnGraph (s t : State) : Prop :=
  Edge s t.phase ∨ (s.phase = codeRender ∧ sinkAnswer s = .noAnswer ∧ t.phase = codeRender)

/-- Every operation of the controller, performed in its own phase, moves PHASE on the graph. The turn taken is no
condition of an edge. -/
theorem exec_phase_movesOnGraph (hi : Inv s) {ts : List Turn} {i : Instr} (hp : phaseCode i = some s.phase)
    (h : exec i (s.withTurns ts) = .next t) : MovesOnGraph s t := by
  have hs {p : BitVec 4} (h : some p = some s.phase) : s.phase = p := (Option.some.inj h).symm
  cases i with
  | rdreg | wrreg | run | cancel => cases hp
  | poll =>
    obtain ⟨hpend, rfl⟩ | ⟨hpend, rfl⟩ := execPoll_next h
    · exact .inl (.pollStop (hs hp) hpend)
    · cases hanswer : pollAnswer (s.withTurns ts) with
      | none => exact .inl (.pollPoll (hs hp) hpend hanswer)
      | some b => exact .inl (.pollPush b (hs hp) hpend hanswer)
  | push =>
    have hroom := hi.cnt_lt (hi.initialised (hs hp)) (hs hp)
    obtain ⟨hfull, -⟩ | ⟨-, -, rfl⟩ := execPush_next h
    · exact absurd hroom (Nat.not_lt.mpr hfull)
    · refine .inl ?_
      simp only
      split
      · exact .pushDrain (hs hp) ‹_›
      · exact .pushPoll (hs hp) ‹_›
  | drain =>
    obtain ⟨bs, -, rfl⟩ := execDrain_next h
    exact .inl (.drainFlush (hs hp))
  | flush =>
    cases h
    exact .inl (.flushDecode (hs hp))
  | decode =>
    obtain ⟨hodd, rfl⟩ | ⟨heven, bs, -, rfl⟩ := execDecode_next h
    · exact .inl (.decodeIdle (hs hp) hodd)
    · exact .inl (.decodeWindow (hs hp) heven)
  | window =>
    obtain ⟨xs, ws, -, -, rfl⟩ := execWindow_next h
    exact .inl (.windowDft (hs hp))
  | dft =>
    obtain ⟨xs, -, rfl⟩ := execDft_next h
    exact .inl (.dftMag (hs hp))
  | mag =>
    obtain ⟨re, im, -, -, rfl⟩ := execMag_next h
    exact .inl (.magDb (hs hp))
  | db =>
    obtain ⟨ms, -, rfl⟩ := execDb_next h
    exact .inl (.dbCrop (hs hp))
  | crop =>
    obtain ⟨ds, -, rfl⟩ := execCrop_next h
    exact .inl (.cropUpdate (hs hp))
  | update =>
    obtain ⟨xs, -, rfl⟩ := execUpdate_next h
    exact .inl (.updateRender (hs hp))
  | render =>
    obtain ⟨matrix, axis, -, -, rfl⟩ := execRender_next h
    have hsink : sinkAnswer (s.withTurns ts) = sinkAnswer s := rfl
    rw [hsink]
    by_cases hanswer : sinkAnswer s = .noAnswer
    · exact .inr ⟨hs hp, hanswer, by rw [hanswer]; rfl⟩
    · rw [afterRender_of_answer hanswer]
      exact .inl (.renderYield (hs hp) hanswer)
  | yield =>
    cases (yieldSeesCancellation (s.withTurns ts)).symm.trans h
    refine .inl ?_
    simp only
    split
    · exact .yieldStop (hs hp) ‹_›
    · exact .yieldPoll (hs hp) (Bool.eq_false_iff.mpr ‹_›)
  | stop =>
    cases h
    exact .inl (.stopIdle (hs hp))

/-- The two codes of no operation (R74, R79). -/
theorem decodePhase_error {c : BitVec 4} {e : DecodeReject} (h : decodePhase c = .error e) :
    c = codeIdle ∨ c = 15 := by
  have hcodes : ∀ c : BitVec 4, (decodePhase c).isOk = false → c = codeIdle ∨ c = 15 := by decide
  exact hcodes c (by rw [h]; rfl)

/-- A Running controller always has an operation. -/
theorem Inv.decodes (hi : Inv s) (hcs : s.cs = .running) : ∃ i, decodePhase s.phase = .ok i := by
  cases hd : decodePhase s.phase with
  | ok i => exact ⟨i, rfl⟩
  | error e =>
    obtain hidle | hres := decodePhase_error hd
    · simp [hi.idle_iff_stopped.mp hidle] at hcs
    · exact absurd hres hi.phase_valid

/-- Settles O14: a Running controller performs the operation of its phase. -/
theorem phaseFollowsTheGraph : Obligations.PhaseFollowsTheGraph := by
  intro s t ts hi hturn hcs h
  obtain ⟨i, hd⟩ := hi.decodes hcs
  rw [step_phase hturn hcs hd] at h
  exact exec_phase_movesOnGraph hi (decodePhase_ok hd) h

/-! ### The cancellation latch (R183) -/

/-- Two attempts at the same part answer alike when what they go on with does. -/
theorem attempt_next_imp {α : Type} {r : Except Fault α} {f g : α → Result} {t u : State}
    (h : attempt r f = .next t) (hfg : ∀ x, f x = .next t → g x = .next u) : attempt r g = .next u := by
  obtain ⟨x, rfl, hx⟩ := (attempt_eq_next_iff ..).mp h
  exact hfg x hx

/-- The state with the cancellation latch at `b`. -/
def State.withPend (s : State) (b : Bool) : State := { s with cancelPend := b }

theorem afterRender_withPend (a : SinkAnswer) (s : State) (b : Bool) :
    afterRender a (s.withPend b) = (afterRender a s).withPend b := by
  cases a <;> rfl

/-- Settles O47: operation by operation, the reads and writes being the same ones. -/
theorem cancellationIsInvisibleElsewhere : Obligations.CancellationIsInvisibleElsewhere := by
  intro s t b i hi h
  change exec i (s.withPend b) = .next (t.withPend b)
  obtain hi | ⟨rfl, heven⟩ := hi
  · simp only [List.mem_cons, List.not_mem_nil, or_false] at hi
    obtain rfl | rfl | rfl | rfl | rfl | rfl | rfl | rfl | rfl | rfl := hi
    · -- PUSH
      obtain ⟨hfull, rfl⟩ | ⟨hroom, hcap, rfl⟩ := execPush_next h
      · exact if_pos hfull
      · exact execPush_eq (s := s.withPend b) hroom hcap
    · -- DRAIN
      exact attempt_next_imp h fun bs h => attempt_next_imp h fun fr h => by cases h; rfl
    · -- FLUSH
      cases h
      rfl
    · -- WINDOW
      exact attempt_next_imp h fun xs h => attempt_next_imp h fun ws h => attempt_next_imp h fun xw h => by cases h; rfl
    · -- DFT
      exact attempt_next_imp h fun xs h => attempt_next_imp h fun re h => attempt_next_imp h fun im h => by cases h; rfl
    · -- MAG
      exact attempt_next_imp h fun re h => attempt_next_imp h fun im h => attempt_next_imp h fun ms h => by cases h; rfl
    · -- DB
      exact attempt_next_imp h fun ms h => attempt_next_imp h fun ds h => by cases h; rfl
    · -- CROP
      exact attempt_next_imp h fun ds h => attempt_next_imp h fun row h => by cases h; rfl
    · -- UPDATE
      exact attempt_next_imp h fun xs h => attempt_next_imp h fun wf h => by cases h; rfl
    · -- RENDER
      obtain ⟨matrix, axis, hm, ha, -⟩ := execRender_next h
      cases (exec_render_eq hm ha).symm.trans h
      exact (exec_render_eq (s := s.withPend b) hm ha).trans
        (congrArg Host.Outcome.next (afterRender_withPend (sinkAnswer s) (s.askSink matrix axis) b))
  · -- DECODE
    obtain ⟨hodd, -⟩ | ⟨-, bs, hbs, rfl⟩ := execDecode_next h
    · omega
    · exact execDecode_eq (s := s.withPend b) heven hbs

/-! ### Data (R188) -/

/-- The two answers to a poll are of one kind: a byte, or none. -/
theorem pollAnswer_sameKind {s s' : State} (h : s.env.SameKind s'.env) :
    (pollAnswer s').isSome = (pollAnswer s).isSome := by
  have hpolls := h.polls
  unfold pollAnswer
  cases hp : s.env.polls with
  | nil =>
    rw [hp, List.map_nil, List.map_eq_nil_iff] at hpolls
    rw [hpolls, h.draws]
  | cons r rs =>
    rw [hp, List.map_cons, List.map_eq_cons_iff] at hpolls
    obtain ⟨r', rs', hp', hr, -⟩ := hpolls
    rw [hp']
    exact hr

/-- What is left of the inputs after a poll is of the same kind again. -/
theorem afterPoll_sameKind {e e' : Env} (h : e.SameKind e') : (afterPoll e).SameKind (afterPoll e') := by
  have hpolls := h.polls
  unfold afterPoll
  cases hp : e.polls with
  | nil =>
    rw [hp, List.map_nil, List.map_eq_nil_iff] at hpolls
    rw [hpolls]
    exact { h with polls := rfl, draws := congrArg (· + 1) h.draws }
  | cons r rs =>
    rw [hp, List.map_cons, List.map_eq_cons_iff] at hpolls
    obtain ⟨r', rs', hp', -, hrs⟩ := hpolls
    rw [hp']
    exact { h with polls := hrs }

/-- The two answers of the sink are of one kind: an answer, or none. -/
theorem sinkAnswer_sameKind {s s' : State} (h : s.env.SameKind s'.env) :
    SameSinkKind (sinkAnswer s) (sinkAnswer s') := by
  have hsinks := h.sinks
  unfold sinkAnswer
  cases hq : s.env.sinks with
  | nil =>
    rw [hq, List.forall₂_nil_left_iff] at hsinks
    rw [hsinks, h.draws]
    exact Iff.rfl
  | cons a as =>
    rw [hq, List.forall₂_cons_left_iff] at hsinks
    obtain ⟨a', as', ha, -, hq'⟩ := hsinks
    rw [hq']
    exact ha

theorem afterSink_sameKind {e e' : Env} (h : e.SameKind e') : (afterSink e).SameKind (afterSink e') := by
  have hsinks := h.sinks
  unfold afterSink
  cases hq : e.sinks with
  | nil =>
    rw [hq, List.forall₂_nil_left_iff] at hsinks
    rw [hsinks]
    exact { h with sinks := List.Forall₂.nil, draws := congrArg (· + 1) h.draws }
  | cons a as =>
    rw [hq, List.forall₂_cons_left_iff] at hsinks
    obtain ⟨a', as', -, has, hq'⟩ := hsinks
    rw [hq']
    exact { h with sinks := has }

namespace SameCourse

variable {s' t' : State}

theorem withTurns (h : SameCourse s s') (ts : List Turn) : SameCourse (s.withTurns ts) (s'.withTurns ts) :=
  { h with env := { h.env with turns := rfl } }

/-- Two states on one course agree on what the framer's fill says. -/
theorem cnt_succ_eq_iff (h : SameCourse s s') :
    s'.cnt.toNat + 1 = 2 * s'.n.toNat ↔ s.cnt.toNat + 1 = 2 * s.n.toNat := by
  rw [h.cnt, h.n]

theorem afterAnswer {r r' : Option Byte} (h : SameCourse s s') (hr : r'.isSome = r.isSome) :
    SameCourse (afterAnswer r s) (afterAnswer r' s') := by
  cases r with
  | none =>
    obtain rfl : r' = none := by simpa using hr
    exact { h with phase := rfl }
  | some b =>
    obtain ⟨b', rfl⟩ := Option.isSome_iff_exists.mp hr
    exact { h with phase := rfl }

theorem afterRender {a a' : SinkAnswer} (h : SameCourse s s') (ha : SameSinkKind a a') :
    SameCourse (afterRender a s) (afterRender a' s') := by
  by_cases hwait : a = .noAnswer
  · rw [hwait, ha.mp hwait]
    exact { h with phase := rfl, renderOpen := rfl }
  · rw [afterRender_of_answer hwait, afterRender_of_answer fun hwait' => hwait (ha.mpr hwait')]
    exact { h with phase := rfl, renderOpen := rfl }

/-- One operation of the controller, performed in both states. -/
theorem exec_phase (hi : Inv s) (hi' : Inv s') (hc : SameCourse s s') {i : Instr} (hp : phaseCode i = some s.phase)
    (h : exec i s = .next t) (h' : exec i s' = .next t') : SameCourse t t' := by
  cases i with
  | rdreg | wrreg | run | cancel => cases hp
  | poll =>
    cases hpend : s.cancelPend with
    | true =>
      cases (execPoll_of_cancelPend hpend).symm.trans h
      cases (execPoll_of_cancelPend (hc.cancelPend.trans hpend)).symm.trans h'
      exact { hc with phase := rfl }
    | false =>
      cases (execPoll_of_pollAnswer hpend rfl).symm.trans h
      cases (execPoll_of_pollAnswer (hc.cancelPend.trans hpend) rfl).symm.trans h'
      have hpolled : SameCourse (s.withEnv (afterPoll s.env)) (s'.withEnv (afterPoll s'.env)) :=
        { hc with env := afterPoll_sameKind hc.env }
      exact hpolled.afterAnswer (pollAnswer_sameKind hc.env)
  | push =>
    have hs : s.phase = codePush := (Option.some.inj hp).symm
    have hs' : s'.phase = codePush := hc.phase.trans hs
    have hroom := hi.cnt_lt (hi.initialised hs) hs
    have hroom' := hi'.cnt_lt (hi'.initialised hs') hs'
    obtain ⟨hfull, -⟩ | ⟨-, -, rfl⟩ := execPush_next h
    · exact absurd hroom (Nat.not_lt.mpr hfull)
    obtain ⟨hfull, -⟩ | ⟨-, -, rfl⟩ := execPush_next h'
    · exact absurd hroom' (Nat.not_lt.mpr hfull)
    exact { hc with cnt := congrArg (· + 1) hc.cnt, phase := if_congr hc.cnt_succ_eq_iff rfl rfl }
  | drain =>
    obtain ⟨bs, -, rfl⟩ := execDrain_next h
    obtain ⟨bs', -, rfl⟩ := execDrain_next h'
    exact { hc with cnt := rfl, phase := rfl }
  | flush =>
    cases h
    cases h'
    exact { hc with phase := rfl }
  | decode =>
    obtain ⟨hodd, -⟩ | ⟨-, bs, -, rfl⟩ := execDecode_next h
    · exact absurd hi.frlen_even_mod (by omega)
    obtain ⟨hodd, -⟩ | ⟨-, bs', -, rfl⟩ := execDecode_next h'
    · exact absurd hi'.frlen_even_mod (by omega)
    exact { hc with phase := rfl }
  | window =>
    obtain ⟨xs, ws, -, -, rfl⟩ := execWindow_next h
    obtain ⟨xs', ws', -, -, rfl⟩ := execWindow_next h'
    exact { hc with phase := rfl }
  | dft =>
    obtain ⟨xs, -, rfl⟩ := execDft_next h
    obtain ⟨xs', -, rfl⟩ := execDft_next h'
    exact { hc with phase := rfl }
  | mag =>
    obtain ⟨re, im, -, -, rfl⟩ := execMag_next h
    obtain ⟨re', im', -, -, rfl⟩ := execMag_next h'
    exact { hc with phase := rfl }
  | db =>
    obtain ⟨ms, -, rfl⟩ := execDb_next h
    obtain ⟨ms', -, rfl⟩ := execDb_next h'
    exact { hc with phase := rfl }
  | crop =>
    obtain ⟨ds, -, rfl⟩ := execCrop_next h
    obtain ⟨ds', -, rfl⟩ := execCrop_next h'
    exact { hc with phase := rfl }
  | update =>
    obtain ⟨xs, -, rfl⟩ := execUpdate_next h
    obtain ⟨xs', -, rfl⟩ := execUpdate_next h'
    exact { hc with phase := rfl }
  | render =>
    obtain ⟨matrix, axis, hm, ha, -⟩ := execRender_next h
    obtain ⟨matrix', axis', hm', ha', -⟩ := execRender_next h'
    cases (exec_render_eq hm ha).symm.trans h
    cases (exec_render_eq hm' ha').symm.trans h'
    exact afterRender { hc with env := afterSink_sameKind hc.env } (sinkAnswer_sameKind hc.env)
  | yield =>
    cases (yieldSeesCancellation s).symm.trans h
    cases (yieldSeesCancellation s').symm.trans h'
    exact { hc with phase := if_congr (by rw [hc.cancelPend]) rfl rfl }
  | stop =>
    cases h
    cases h'
    exact { hc with cs := rfl, phase := rfl, cancelPend := rfl }

end SameCourse

/-- Settles O48: the two controllers fetch alike, and then do alike. -/
theorem dataNeverMovesTheController : Obligations.DataNeverMovesTheController := by
  intro s s' t t' ts hi hi' hturn hc h h'
  have hturn' : s'.env.turns = .controller :: ts := hc.env.turns.trans hturn
  cases hcs : s.cs with
  | stopped =>
    cases (step_stopped hturn hcs).symm.trans h
    cases (step_stopped hturn' (hc.cs.trans hcs)).symm.trans h'
    exact hc.withTurns ts
  | running =>
    obtain ⟨i, hd⟩ := hi.decodes hcs
    rw [step_phase hturn hcs hd] at h
    rw [step_phase hturn' (hc.cs.trans hcs) (hc.phase.symm ▸ hd)] at h'
    exact SameCourse.exec_phase (hi.withEnv _) (hi'.withEnv _) (hc.withTurns ts) (decodePhase_ok hd) h h'

end Sys2Proof.Machine
end

section
/-!
Runs of the controller (45_controller R176), and the framer filled byte by byte (40_framer_decoder R91 to R93).
-/

namespace Sys2Proof.Machine

variable {s t u : State} {k l : Nat}

/-! ### Turns of the controller in a row -/

/-- `k` turns of the controller lead from `s` to `t`, each performing the operation of its phase, whatever the turns
still to come. -/
inductive ControllerRun : Nat → State → State → Prop where
  | done (s : State) : ControllerRun 0 s s
  | turn {k : Nat} {i : Instr} {s u t : State} (hcs : s.cs = .running) (hd : decodePhase s.phase = .ok i)
      (hexec : ∀ ts, exec i (s.withTurns ts) = .next (u.withTurns ts)) (hrest : ControllerRun k u t) :
      ControllerRun (k + 1) s t

namespace ControllerRun

/-- A run of the controller is a run of the machine that takes the controller's turns from the list. -/
theorem run_withTurns (h : ControllerRun k s t) (ts : List Turn) :
    Sys2Proof.core.run k (s.withTurns (List.replicate k .controller ++ ts)) = .next (t.withTurns ts) := by
  induction h with
  | done s => rfl
  | @turn k i s u t hcs hd hexec _ ih =>
    have hstep : step (s.withTurns (.controller :: (List.replicate k .controller ++ ts)))
        = .next (u.withTurns (List.replicate k .controller ++ ts)) :=
      (step_phase (s := s.withTurns _) rfl hcs hd).trans (hexec _)
    exact (run_succ hstep).trans ih

theorem run_eq (h : ControllerRun k s t) {ts : List Turn} (hturns : s.env.turns = List.replicate k .controller ++ ts) :
    Sys2Proof.core.run k s = .next (t.withTurns ts) := by
  have hself : s.withTurns (List.replicate k .controller ++ ts) = s := by rw [← hturns]; rfl
  exact hself ▸ h.run_withTurns ts

theorem trans (h : ControllerRun k s u) (h' : ControllerRun l u t) : ControllerRun (l + k) s t := by
  induction h with
  | done s => exact h'
  | turn hcs hd hexec _ ih => exact .turn hcs hd hexec (ih h')

theorem one {i : Instr} (hcs : s.cs = .running) (hd : decodePhase s.phase = .ok i)
    (hexec : ∀ ts, exec i (s.withTurns ts) = .next (t.withTurns ts)) : ControllerRun 1 s t :=
  .turn hcs hd hexec (.done t)

/-- Every turn of a run keeps the invariant. -/
theorem inv (h : ControllerRun k s t) (hi : Inv s) : Inv t := by
  induction h with
  | done s => exact hi
  | @turn k i s u t hcs hd hexec _ ih =>
    have hi' : Inv (s.withTurns []) := hi.withEnv _
    have hnext : Inv (u.withTurns []) := exec_phase_keeps_inv hi' (decodePhase_ok hd) (hexec [])
    exact ih (hnext.withEnv u.env)

end ControllerRun

/-! ### A frame from its bytes (R91, R92, R57) -/

theorem afterPoll_cons {e : Env} {r : Option Byte} {rs : List (Option Byte)} (h : e.polls = r :: rs) :
    afterPoll e = { e with polls := rs } := by
  rw [afterPoll, h]

theorem pollAnswer_cons {r : Option Byte} {rs : List (Option Byte)} (h : s.env.polls = r :: rs) :
    pollAnswer s = r := by
  rw [pollAnswer, h]

/-- Ready to take a byte: at POLL while there is room and at DRAIN when the frame is whole, no cancellation pending. -/
structure Assembling (s : State) : Prop where
  cs : s.cs = .running
  pend : s.cancelPend = false
  phase : s.phase = if s.cnt.toNat = 2 * s.n.toNat then codeDrain else codePoll
  n_le : s.n.toNat ≤ s.caps.nmax

/-- The state as POLL leaves it with the byte `b`, `ps` being the polls still to come. -/
def State.pollByte (s : State) (b : Byte) (ps : List (Option Byte)) : State :=
  { s with byte := b, phase := codePush, env := { s.env with polls := ps } }

/-- The state as POLL and PUSH leave it between them. -/
def State.pushByte (s : State) (b : Byte) (ps : List (Option Byte)) : State :=
  { s.pollByte b ps with
    fb := s.fb.write s.cnt.toNat [b]
    cnt := s.cnt + 1
    phase := if s.cnt.toNat + 1 = 2 * s.n.toNat then codeDrain else codePoll }

section PushByte

variable {b : Byte} {ps : List (Option Byte)}

@[simp] theorem pushByte_n (s : State) (b : Byte) (ps : List (Option Byte)) : (s.pushByte b ps).n = s.n := rfl

theorem exec_poll_byte (hpend : s.cancelPend = false) (hpolls : s.env.polls = some b :: ps) :
    exec .poll s = .next (s.pollByte b ps) := by
  rw [exec_poll, execPoll_of_pollAnswer hpend (pollAnswer_cons hpolls), afterPoll_cons hpolls]
  rfl

/-- Two turns take one byte. -/
theorem Assembling.take_byte (h : Assembling s) (hroom : s.cnt.toNat < 2 * s.n.toNat)
    (hpolls : s.env.polls = some b :: ps) : ControllerRun 2 s (s.pushByte b ps) := by
  obtain ⟨hcs, hpend, hphase, hn⟩ := h
  rw [if_neg hroom.ne] at hphase
  have hcap : s.cnt.toNat < 2 * s.caps.nmax := by omega
  refine .turn (i := .poll) (u := s.pollByte b ps) hcs (by rw [hphase]; rfl)
    (fun ts => exec_poll_byte (s := s.withTurns ts) hpend hpolls) ?_
  exact .one (i := .push) hcs rfl fun ts => execPush_eq (s := (s.pollByte b ps).withTurns ts) hroom hcap

theorem pushByte_cnt (hroom : s.cnt.toNat < 2 * s.n.toNat) : (s.pushByte b ps).cnt.toNat = s.cnt.toNat + 1 :=
  cnt_succ_toNat hroom

theorem Assembling.pushByte (h : Assembling s) (hroom : s.cnt.toNat < 2 * s.n.toNat) :
    Assembling (s.pushByte b ps) :=
  { h with phase := by rw [pushByte_cnt hroom]; rfl }

theorem pushByte_fb_get (i : Nat) :
    (s.pushByte b ps).fb.get i = if i = s.cnt.toNat then some b else s.fb.get i := by
  simp only [State.pushByte, Memory.get_write, List.length_singleton]
  by_cases hi : i = s.cnt.toNat
  · simp [hi]
  · rw [if_neg (by omega), if_neg hi]

end PushByte

/-- `t` has the bytes of a list behind those `s` had, and nothing else of the block has changed but BYTE and PHASE. -/
structure Assembled (bytes : List Byte) (s t : State) : Prop where
  frame : t = { s with byte := t.byte, fb := t.fb, cnt := t.cnt, phase := t.phase, env := t.env }
  cnt : t.cnt.toNat = s.cnt.toNat + bytes.length
  kept : ∀ i < s.cnt.toNat, t.fb.get i = s.fb.get i
  stored : ∀ j < bytes.length, t.fb.get (s.cnt.toNat + j) = bytes[j]?

/-- A byte in front of others. -/
theorem Assembled.cons {b : Byte} {bs : List Byte} {ps : List (Option Byte)} (hroom : s.cnt.toNat < 2 * s.n.toNat)
    (h : Assembled bs (s.pushByte b ps) t) : Assembled (b :: bs) s t := by
  obtain ⟨hframe, hlen, hkept, hstored⟩ := h
  rw [pushByte_cnt hroom] at hlen hkept hstored
  refine ⟨hframe, by rw [hlen, List.length_cons]; omega, fun i hi => ?_, fun j hj => ?_⟩
  · rw [hkept i (by omega), pushByte_fb_get, if_neg (by omega)]
  · cases j with
    | zero => rw [Nat.add_zero, hkept _ (by omega), pushByte_fb_get, if_pos rfl, List.getElem?_cons_zero]
    | succ j =>
      have hidx : s.cnt.toNat + (j + 1) = s.cnt.toNat + 1 + j := by omega
      rw [hidx, hstored j (by simpa using hj), List.getElem?_cons_succ]

/-- Byte by byte, two turns each, as long as there is room for all of them. -/
theorem Assembling.take_bytes {bytes : List Byte} {ps : List (Option Byte)} (h : Assembling s)
    (hroom : s.cnt.toNat + bytes.length ≤ 2 * s.n.toNat) (hpolls : s.env.polls = bytes.map some ++ ps) :
    ∃ t, ControllerRun (2 * bytes.length) s t ∧ Assembling t ∧ Assembled bytes s t ∧ t.env.polls = ps := by
  induction bytes generalizing s with
  | nil => exact ⟨s, .done s, h, ⟨rfl, rfl, fun _ _ => rfl, nofun⟩, hpolls⟩
  | cons b bs ih =>
    rw [List.length_cons] at hroom
    have hlt : s.cnt.toNat < 2 * s.n.toNat := by omega
    obtain ⟨t, hrun, hready, hbytes, hrest⟩ := ih (h.pushByte (b := b) (ps := bs.map some ++ ps) hlt)
      (by rw [pushByte_cnt hlt, pushByte_n]; omega) rfl
    exact ⟨t, (h.take_byte hlt hpolls).trans hrun, hready, hbytes.cons hlt, hrest⟩

/-- Settles O49: the 2*N bytes taken from an empty framer. -/
theorem framerAssemblesOneFrame : Obligations.FramerAssemblesOneFrame := by
  intro s bytes ts ps hi hcs hphase hcnt hpend hlen hturns hpolls
  obtain ⟨hn2, hnmax, -⟩ := hi.dims (hi.initialised hphase)
  have hzero : s.cnt.toNat = 0 := by rw [hcnt]; rfl
  have hstart : Assembling s := ⟨hcs, hpend, by rw [hphase, if_neg (by omega)], hnmax⟩
  obtain ⟨t, hrun, hready, ⟨hframe, hcount, -, hstored⟩, hrest⟩ := hstart.take_bytes (by omega) hpolls
  have hturncount : 2 * bytes.length = 4 * s.n.toNat := by omega
  rw [hturncount] at hrun
  rw [hzero, Nat.zero_add] at hcount
  have hfull : t.cnt.toNat = 2 * s.n.toNat := hcount.trans hlen
  have hn : t.n = s.n := (congrArg State.n hframe :)
  refine ⟨_, hrun.run_eq hturns, ?drain, hfull, fun i hi => ?stored, (congrArg State.wf hframe :),
    (congrArg State.wp hframe :), (congrArg State.hist hframe :), rfl, hrest⟩
  case drain => exact hready.phase.trans (if_pos (by rw [hfull, hn]))
  case stored =>
    have hget := hstored i (by omega)
    rwa [hzero, Nat.zero_add] at hget

end Sys2Proof.Machine
end

section
/-!
A drained frame processed to its end (45_controller R176, R183): the turns from DRAIN to UPDATE, then RENDER and YIELD.
-/

namespace Sys2Proof.Machine

variable {s : State}

/-! ### DRAIN to DECODE -/

/-- The state as DRAIN leaves it, with the frame `bs`. -/
def State.handOver (s : State) (bs : List Byte) : State :=
  { s with fr := s.fr.write 0 bs, frlen := BitVec.ofNat 18 (2 * s.n.toNat), cnt := 0, phase := codeFlush }

/-- The state as FLUSH leaves it. -/
def State.flush (s : State) : State := (s.emit .flush).goto codeDecode

/-- The state as DRAIN, FLUSH and DECODE leave it between them. -/
def State.receive (s : State) (bs : List Byte) : State :=
  { s with
    fr := s.fr.write 0 bs, frlen := BitVec.ofNat 18 (2 * s.n.toNat), cnt := 0, hist := s.hist ++ [.flush]
    smp := s.smp.write 0 (decodeSamples bs), phase := codeWindow }

/-- DRAIN, FLUSH and DECODE. -/
theorem run_receive {bs : List Byte} (hcs : s.cs = .running) (hphase : s.phase = codeDrain)
    (hbs : readFirst s.caps .fb s.fb (2 * s.n.toNat) = .ok bs) : ControllerRun 3 s (s.receive bs) := by
  obtain ⟨hlen, hcap, -⟩ := (readFirst_eq_ok_iff ..).mp hbs
  have hfrlen : (s.handOver bs).frlen.toNat = 2 * s.n.toNat := by
    have := s.n.isLt
    simp only [State.handOver, BitVec.toNat_ofNat]
    omega
  have hfr : readFirst s.caps .fr (s.handOver bs).fr (s.handOver bs).frlen.toNat = .ok bs := by
    rw [hfrlen]
    exact readFirst_write_all hlen hcap
  refine .turn (i := .drain) (u := s.handOver bs) hcs (by rw [hphase]; rfl)
    (fun ts => execDrain_eq (s := s.withTurns ts) hbs) ?_
  refine .turn (i := .flush) (u := (s.handOver bs).flush) hcs rfl (fun ts => exec_flush _) ?_
  exact .one (i := .decode) hcs rfl fun ts =>
    execDecode_eq (s := (s.handOver bs).flush.withTurns ts) (Nat.mod_eq_zero_of_dvd ⟨_, hfrlen⟩) hfr

/-! ### WINDOW to CROP -/

/-- What the five operations store, array by array. -/
theorem storeTransform_eq (s : State) (xw : List Value) :
    s.storeTransform xw = { s with
      xw := s.xw.write 0 xw
      xre := s.xre.write 0 ((bins s.n.toNat xw).map Prod.fst)
      xim := s.xim.write 0 ((bins s.n.toNat xw).map Prod.snd)
      mag := s.mag.write 0 (magnitudes ((bins s.n.toNat xw).take s.h.toNat))
      dbv := s.dbv.write 0 (decibels s.n.toNat s.h.toNat xw)
      row := s.row.write 0 ((decibels s.n.toNat s.h.toNat xw).take s.k.toNat)
      phase := codeUpdate } := by
  rfl

theorem run_window {xs ws : List Value} (hcs : s.cs = .running) (hphase : s.phase = codeWindow)
    (hxs : readFirst s.caps .smp s.smp s.n.toNat = .ok xs) (hws : readFirst s.caps .win s.win s.n.toNat = .ok ws) :
    ControllerRun 1 s (s.storeXw (List.zipWith Config.num.mul xs ws)) :=
  .one hcs (by rw [hphase]; rfl) fun ts => exec_window_eq (s := s.withTurns ts) hxs hws

theorem run_dft {xw : List Value} (hcs : s.cs = .running) (hl : xw.length = s.n.toNat)
    (hn : s.n.toNat ≤ s.caps.nmax) :
    ControllerRun 1 (s.storeXw xw) ((s.storeXw xw).storeBins (bins s.n.toNat xw)) :=
  .one hcs rfl fun ts => exec_dft_storeXw (s := s.withTurns ts) hl hn

theorem run_mag {bs : List (Value × Value)} (hcs : s.cs = .running) (hl : s.h.toNat ≤ bs.length)
    (hh : s.h.toNat ≤ s.caps.nmax / 2) :
    ControllerRun 1 (s.storeBins bs) ((s.storeBins bs).storeMag (magnitudes (bs.take s.h.toNat))) :=
  .one hcs rfl fun ts => exec_mag_storeBins (s := s.withTurns ts) hl hh

theorem run_db {ms : List Value} (hcs : s.cs = .running) (hl : ms.length = s.h.toNat)
    (hh : s.h.toNat ≤ s.caps.nmax / 2) :
    ControllerRun 1 (s.storeMag ms) ((s.storeMag ms).storeDbv (ms.map Config.num.db)) :=
  .one hcs rfl fun ts => exec_db_storeMag (s := s.withTurns ts) hl hh

theorem run_crop {ds : List Value} (hcs : s.cs = .running) (hl : s.k.toNat ≤ ds.length)
    (hk : s.k.toNat ≤ s.caps.nmax / 2) :
    ControllerRun 1 (s.storeDbv ds) ((s.storeDbv ds).storeRow (ds.take s.k.toNat)) :=
  .one hcs rfl fun ts => exec_crop_storeDbv (s := s.withTurns ts) hl hk

/-- WINDOW to CROP. -/
theorem run_transform {xs ws : List Value} (hcs : s.cs = .running) (hphase : s.phase = codeWindow)
    (hxs : readFirst s.caps .smp s.smp s.n.toNat = .ok xs) (hws : readFirst s.caps .win s.win s.n.toNat = .ok ws)
    (hh : s.h.toNat = s.n.toNat / 2) (hk : s.k.toNat ≤ s.h.toNat) :
    ControllerRun 5 s (s.storeTransform (List.zipWith Config.num.mul xs ws)) := by
  have hn : s.n.toNat ≤ s.caps.nmax := ((readFirst_eq_ok_iff ..).mp hxs).2.1
  have hhalf : s.h.toNat ≤ s.caps.nmax / 2 := by omega
  have hhn : s.h.toNat ≤ s.n.toNat := by omega
  have hwindow := run_window hcs hphase hxs hws
  have hlen : (List.zipWith Config.num.mul xs ws).length = s.n.toNat := by
    simp [length_of_readFirst hxs, length_of_readFirst hws]
  generalize List.zipWith Config.num.mul xs ws = xw at hwindow hlen ⊢
  have hlbins : s.h.toNat ≤ (bins s.n.toNat xw).length := by simpa [bins]
  have hlmag : (magnitudes ((bins s.n.toNat xw).take s.h.toNat)).length = s.h.toNat := by
    simpa [magnitudes] using hlbins
  have hldb : s.k.toNat ≤ (decibels s.n.toNat s.h.toNat xw).length := hk.trans (length_decibels hhn xw).ge
  have hdft := run_dft hcs hlen hn
  have hmag := run_mag (s := s.storeXw xw) hcs hlbins hhalf
  have hdb := run_db (s := (s.storeXw xw).storeBins (bins s.n.toNat xw)) hcs hlmag hhalf
  have hcrop := run_crop (s := ((s.storeXw xw).storeBins (bins s.n.toNat xw)).storeMag
    (magnitudes ((bins s.n.toNat xw).take s.h.toNat))) hcs hldb (hk.trans hhalf)
  exact hwindow.trans (hdft.trans (hmag.trans (hdb.trans hcrop)))

/-! ### UPDATE, RENDER and YIELD -/

/-- UPDATE. -/
theorem run_update {r : List Value} (hcs : s.cs = .running) (hphase : s.phase = codeUpdate)
    (hr : readFirst s.caps .row s.row s.k.toNat = .ok r) (hw : s.wp.toNat < s.caps.depthMax) :
    ControllerRun 1 s (s.storeNewest r) :=
  .one hcs (by rw [hphase]; rfl) fun ts => exec_update_eq (s := s.withTurns ts) hr hw

/-- The state as RENDER leaves it with the answer `a`, where `as` are the answers still to come. -/
def State.completeRender (s : State) (matrix : List (List Value)) (axis : List Value) (a : SinkAnswer)
    (as : List SinkAnswer) : State :=
  { s with
    hist := if s.renderOpen = true then s.hist else s.hist ++ [.render matrix axis (yExtent s.yext)]
    sinkFail := s.sinkFail || a == .fail
    renderOpen := false
    phase := codeYield
    env := { s.env with sinks := as } }

theorem completeRender_hist {matrix : List (List Value)} {axis : List Value} {a : SinkAnswer} {as : List SinkAnswer}
    (hopen : s.renderOpen = false) :
    (s.completeRender matrix axis a as).hist = s.hist ++ [.render matrix axis (yExtent s.yext)] :=
  if_neg (by simp [hopen])

theorem exec_render_of_answer {matrix : List (List Value)} {axis : List Value} {a : SinkAnswer} {as : List SinkAnswer}
    (hm : snapshot s = .ok matrix) (hax : readFirst s.caps .spd s.spd s.k.toNat = .ok axis)
    (hsinks : s.env.sinks = a :: as) (ha : a ≠ .noAnswer) :
    exec .render s = .next (s.completeRender matrix axis a as) := by
  have hanswer : sinkAnswer s = a := by rw [sinkAnswer, hsinks]
  have hafter : afterSink s.env = { s.env with sinks := as } := by rw [afterSink, hsinks]
  rw [exec_render_eq hm hax, hanswer, afterRender_of_answer ha, State.askSink, hafter]
  rfl

/-- The state as YIELD leaves it. -/
def State.yield (s : State) : State := s.goto (if s.cancelPend = true then codeStop else codePoll)

/-- RENDER, with an answer, and YIELD. -/
theorem run_render {matrix : List (List Value)} {axis : List Value} {a : SinkAnswer} {as : List SinkAnswer}
    (hcs : s.cs = .running) (hphase : s.phase = codeRender) (hm : snapshot s = .ok matrix)
    (hax : readFirst s.caps .spd s.spd s.k.toNat = .ok axis) (hsinks : s.env.sinks = a :: as) (ha : a ≠ .noAnswer) :
    ControllerRun 2 s (s.completeRender matrix axis a as).yield := by
  refine .turn (i := .render) (u := s.completeRender matrix axis a as) hcs (by rw [hphase]; rfl)
    (fun ts => exec_render_of_answer (s := s.withTurns ts) hm hax hsinks ha) ?_
  exact .one (i := .yield) hcs rfl fun ts => yieldSeesCancellation _

/-! ### The whole frame -/

/-- The windowed samples of a frame. -/
def frameXw (s : State) (bs : List Byte) : List Value :=
  List.zipWith Config.num.mul (decodeSamples bs) (hannTable s.n.toNat)

/-- The row of a frame: the transform of its samples, as WINDOW to CROP leave it in ROW. -/
def frameRow (s : State) (bs : List Byte) : List Value :=
  (decibels s.n.toNat s.h.toNat (frameXw s bs)).take s.k.toNat

/-- The working arrays of a frame, as some state holds them (R25, R26). -/
structure FrameArrays where
  fr : Memory Byte
  frlen : BitVec 18
  smp : Memory Value
  xw : Memory Value
  xre : Memory Value
  xim : Memory Value
  mag : Memory Value
  dbv : Memory Value
  row : Memory Value

/-- The state as DRAIN to CROP leave it, with the working arrays `w`. -/
def State.processFrame (s : State) (w : FrameArrays) : State :=
  { s with
    fr := w.fr, frlen := w.frlen, smp := w.smp, xw := w.xw, xre := w.xre, xim := w.xim, mag := w.mag, dbv := w.dbv
    row := w.row, cnt := 0, hist := s.hist ++ [.flush], phase := codeUpdate }

section Frame

variable {bs : List Byte} (hi : Inv s) (hphase : s.phase = codeDrain) (hlen : bs.length = 2 * s.n.toNat)
  (hget : ∀ i < 2 * s.n.toNat, s.fb.get i = bs[i]?)

theorem length_frameRow (hh : s.h.toNat ≤ s.n.toNat) (hk : s.k.toNat ≤ s.h.toNat) (bs : List Byte) :
    (frameRow s bs).length = s.k.toNat := by
  rw [frameRow, List.length_take_of_le (hk.trans (length_decibels hh _).ge)]

/-- Entry by entry the row is the transform of the samples (R135). -/
theorem map_some_frameRow (hh : s.h.toNat ≤ s.n.toNat) (hk : s.k.toNat ≤ s.h.toNat) (bs : List Byte) :
    (frameRow s bs).map some
      = (List.range s.k.toNat).map fun k => some (Config.num.transform s.n.toNat (decodeSamples bs) k) := by
  refine (map_range_eq_map_some (length_frameRow hh hk bs) fun k hlt => ?_).symm
  rw [frameRow, List.getElem?_take_of_lt hlt, getElem?_decibels (hlt.trans_le hk) hh]
  rfl

include hi hphase hlen hget in
/-- Eight turns from DRAIN: the frame's row is in ROW. -/
theorem run_processFrame :
    ∃ w, ControllerRun 8 s (s.processFrame w)
      ∧ readFirst s.caps .row (s.processFrame w).row s.k.toNat = .ok (frameRow s bs) := by
  have hcs := hi.running hphase
  have hinit := hi.initialised hphase
  obtain ⟨-, hn, -, -, hh, -, hk⟩ := hi.dims hinit
  have hsamples : (decodeSamples bs).length = s.n.toNat := by rw [decodeSamples_length]; omega
  have hfb : readFirst s.caps .fb s.fb (2 * s.n.toNat) = .ok bs :=
    readFirst_of_get hlen (Nat.mul_le_mul_left 2 hn) hget
  have hsmp : readFirst s.caps .smp (s.smp.write 0 (decodeSamples bs)) s.n.toNat = .ok (decodeSamples bs) :=
    readFirst_write_all hsamples hn
  have htransform := run_transform (s := s.receive bs) hcs rfl hsmp (readFirst_hannTable hn hi.window_table) hh hk
  rw [storeTransform_eq] at htransform
  refine ⟨⟨_, _, _, _, _, _, _, _, _⟩, (run_receive hcs hphase hfb).trans htransform, ?_⟩
  exact readFirst_write_all (length_frameRow (by omega) hk bs) (hi.k_le hinit)

include hi hphase hlen hget in
/-- One turn more: the frame's row is the newest. -/
theorem run_storeFrame : ∃ w, ControllerRun 9 s ((s.processFrame w).storeNewest (frameRow s bs)) := by
  have hinit := hi.initialised hphase
  obtain ⟨-, -, -, hd, -⟩ := hi.dims hinit
  obtain ⟨w, hrun, hrow⟩ := run_processFrame hi hphase hlen hget
  have hw : s.wp.toNat < s.caps.depthMax := (hi.wp_lt hinit).trans_le hd
  exact ⟨w, hrun.trans (run_update (s := s.processFrame w) (hi.running hphase) rfl hrow hw)⟩

end Frame

/-- Settles O50: the frame stored in nine turns, then RENDER and YIELD. -/
theorem frameSequenceRunsToItsEnd : Obligations.FrameSequenceRunsToItsEnd := by
  intro s bs ts a as hi hcs hphase hlen hget hturns hsinks ha
  have hinit := hi.initialised hphase
  obtain ⟨-, -, -, hd, hh, -, hk⟩ := hi.dims hinit
  obtain ⟨-, -, -, hcap⟩ := hi.caps_ok
  have hw := hi.wp_lt hinit
  have hhn : s.h.toNat ≤ s.n.toNat := by omega
  have hr := length_frameRow hhn hk bs
  obtain ⟨w, hrun⟩ := run_storeFrame hi hphase hlen hget
  have hstored := hrun.inv hi
  obtain ⟨matrix, axis, hm, hax, hrows, -⟩ := exists_transaction
    (s := (s.processFrame w).storeNewest (frameRow s bs)) hd (hi.k_le hinit) hstored.waterfall_written
    hstored.axis_written
  have hrender := run_render (s := (s.processFrame w).storeNewest (frameRow s bs)) hcs rfl hm hax hsinks ha
  refine ⟨_, matrix, axis, yExtent s.yext, (hrun.trans hrender).run_eq hturns, rfl, ?newest, fun i h1 hlt => ?older,
    ?hist, hrows, rfl, rfl, rfl⟩
  case newest =>
    exact (logicalRow_storeNewest_zero (s := s.processFrame w) hw (hd.trans hcap) hr).trans
      (map_some_frameRow hhn hk bs)
  case older =>
    obtain ⟨i, rfl⟩ := Nat.exists_eq_add_of_le' h1
    exact logicalRow_storeNewest_succ (s := s.processFrame w) hw (hd.trans hcap) hr hlt
  case hist =>
    exact (completeRender_hist (s := (s.processFrame w).storeNewest (frameRow s bs)) (a := a) (as := as)
      (hi.not_waiting hphase)).trans (List.append_assoc ..)

end Sys2Proof.Machine
end
